-- ==== Sys2Proof/Word.lean ====
section
/-! DEFINITION. The word type of the block (the 3-bit event word of R31) and the two shapes every other
file uses: the three phases (R7) and a value for each of them. -/

namespace Sys2Proof

/-- The event word `E` of R31: bit 2 is `rst`, bit 1 is `mod`, bit 0 is `car`. -/
abbrev EventWord := BitVec 3

/-- The three phases, in the order R7 fixes. -/
inductive Phase where
  | a
  | b
  | c
deriving DecidableEq, Repr

/-- One value for each phase (a duty triple of R13, a phase triple of R14, the offsets of R4). -/
structure Triple (α : Type) where
  a : α
  b : α
  c : α
deriving DecidableEq, Repr

/-- The value a triple holds for one phase. -/
def Triple.get {α : Type} (t : Triple α) : Phase → α
  | .a => t.a
  | .b => t.b
  | .c => t.c

/-- One function applied to the three values of a triple. -/
def Triple.map {α β : Type} (f : α → β) (t : Triple α) : Triple β :=
  { a := f t.a, b := f t.b, c := f t.c }

/-- The same value for the three phases. -/
def Triple.same {α : Type} (x : α) : Triple α :=
  { a := x, b := x, c := x }

/-- The block's three input ports in one step (R17): the platform drives them, the step samples them. -/
structure InPorts where
  rst : Bool
  modTick : Bool
  carTick : Bool
deriving DecidableEq, Repr

end Sys2Proof
end

