-- ==== Sys2Proof/Syntax.lean ====
section
/-! DEFINITION. The instructions: one constructor per row of spec/opcode_table.json. Each is the event of one
step (R32). None has an operand (R33), and the three words 101, 110, 111 are `RST` and no operations of
their own (R34). -/

namespace Sys2Proof

/-- The five operations of R32. -/
inductive Instr where
  /-- `NOP`: no event in this step (R52). -/
  | nop
  /-- `CAR`: carrier tick (R39). -/
  | car
  /-- `MOD`: modulation tick (R47). -/
  | mod
  /-- `CARMOD`: both ticks in one step (R53). -/
  | carmod
  /-- `RST`: reset (R54). -/
  | rst
deriving DecidableEq, Repr

end Sys2Proof
end

