-- ==== Sys2Proof/Decode.lean ====
section
/-! DEFINITION. The event word: how the input ports form it (R31), how it decodes (R32), the canonical word of
each operation (R36), and the mask and match of each row of the opcode table (R32). -/

namespace Sys2Proof

/-- R31: `E = {rst, mod_tick, car_tick}`, `rst` most significant. -/
def InPorts.word (p : InPorts) : EventWord :=
  BitVec.ofBool p.rst ++ BitVec.ofBool p.modTick ++ BitVec.ofBool p.carTick

/-- The port levels that form a given event word (R31 read the other way). -/
def InPorts.ofWord (e : EventWord) : InPorts :=
  { rst := e.getLsbD 2, modTick := e.getLsbD 1, carTick := e.getLsbD 0 }

/-- No trigger fires and no reset is requested: word `000`. -/
def InPorts.idle : InPorts := { rst := false, modTick := false, carTick := false }

/-- R32's `decode`: total, and `rst` dominates the ticks. -/
def decode (e : EventWord) : Instr :=
  match e.getLsbD 2, e.getLsbD 1, e.getLsbD 0 with
  | true, _, _ => .rst
  | false, false, false => .nop
  | false, false, true => .car
  | false, true, false => .mod
  | false, true, true => .carmod

/-- The canonical word of each operation (R36). -/
def encode : Instr → EventWord
  | .nop => 0b000#3
  | .car => 0b001#3
  | .mod => 0b010#3
  | .carmod => 0b011#3
  | .rst => 0b100#3

/-- The mask column of R32's table. -/
def Instr.mask : Instr → EventWord
  | .nop => 0b111#3
  | .car => 0b111#3
  | .mod => 0b111#3
  | .carmod => 0b111#3
  | .rst => 0b100#3

/-- The match column of R32's table. -/
def Instr.pattern : Instr → EventWord
  | .nop => 0b000#3
  | .car => 0b001#3
  | .mod => 0b010#3
  | .carmod => 0b011#3
  | .rst => 0b100#3

/-- The low `nbits` bits of a number, taken as one event word; `none` where a bit above bit 2 is set, since
an event word has three bits (R31, R35) (log entry 11). -/
def eventWordOf (nbits w : Nat) : Option EventWord :=
  let v := w % 2 ^ nbits
  if v < 8 then some (BitVec.ofNat 3 v) else none

/-- The instruction the decoder reads from a word numbered as the opcode table numbers it. -/
def decodeTableWord (nbits w : Nat) : Option Instr :=
  (eventWordOf nbits w).map decode

end Sys2Proof
end

