-- ==== Sys2Proof/Config.lean ====
section
/-! DEFINITION. What is fixed at construction and never changed at run time (R4): the configuration
record `Cfg`, and the free values: constants with no body, of which no proof can know a value. -/

namespace Sys2Proof

/-- `CARMOD_ORDER` (R4, R53): which serial orders a step with both triggers admits. -/
inductive CarmodOrder where
  | any
  | carFirst
  | modFirst
deriving DecidableEq, Repr

/-- `RESET_VALUES` (R4, R67): whether reset writes 0 to the elements the source gives no reset value, or
leaves them as free draws within their ranges. -/
inductive ResetValues where
  | zero
  | any
deriving DecidableEq, Repr

/-- The configuration record `Cfg` of R4. A `Cfg` may be ill-formed; R5's checks are in WellFormed.lean. -/
structure Cfg where
  /-- `N`: sine table length and modulus of the modulation index. -/
  n : Nat
  /-- `CARRIER_PERIOD`: steps per carrier cycle. -/
  carrierPeriod : Nat
  /-- `DUTY_MAX`: largest duty value. -/
  dutyMax : Nat
  /-- `PHASE_OFFSETS`: the table-index offsets of phases A, B, C. -/
  phaseOffsets : Triple Nat
  /-- `SINE_TABLE`: the samples, entry `i` at ROM address `i` (R20). -/
  sineTable : List Nat
  /-- `CARMOD_ORDER`. -/
  carmodOrder : CarmodOrder
  /-- `RESET_VALUES`. -/
  resetValues : ResetValues
deriving DecidableEq, Repr

/-- FREE VALUE (log entry 4): the OPEN sine samples (R22) of the configuration `State.reset` carries. -/
opaque Config.sineSample : Nat → Nat

/-- FREE VALUE (log entry 6): whether the CARMOD that reads draw `k` under `CARMOD_ORDER = ANY` performs
CAR first (R53: the model admits both orders). -/
opaque Config.carFirstDraw : Nat → Bool

/-- FREE VALUE (log entry 7): the number draw `k` of a reset under `RESET_VALUES = ANY` (R67), before it is
confined to the range of the element it is for. -/
opaque Config.resetNumber : Nat → Nat

/-- FREE VALUE (log entry 7): the bit draw `k` of a reset under `RESET_VALUES = ANY` (R67). -/
opaque Config.resetBit : Nat → Bool

/-- FREE VALUE (log entry 9): what register number `k` holds at power-up (R19: no value is given). -/
opaque Config.powerUpNumber : Nat → Nat

/-- FREE VALUE (log entry 9): what phase bit number `k` holds at power-up (R19: no value is given). -/
opaque Config.powerUpBit : Nat → Bool

/-- FREE VALUE (log entry 9): the level an output port shows before the first reset (U9: any value), for the
draw counter's value and the phase. -/
opaque Config.undefinedPin : Nat → Phase → Bool

end Sys2Proof
end

