-- ==== Sys2Proof/WellFormed.lean ====
section
/-! DEFINITION. The named checks of R5 on a configuration, the configuration that passed them all, and the
reference configuration of R4 with an open table. An instruction has no operand (R33), so there is nothing
to check of one; the checks of a textual statement (R36) are in Machine/Assembly.lean. -/

namespace Sys2Proof

/-- The seven named checks of R5. -/
inductive CfgCheck where
  | nPos
  | nDiv3
  | offsets
  | periodPos
  | tableLen
  | tableRange
  | dutyLePeriod
deriving DecidableEq, Repr

/-- R5's checks in the order of its table. -/
def CfgCheck.inOrder : List CfgCheck :=
  [.nPos, .nDiv3, .offsets, .periodPos, .tableLen, .tableRange, .dutyLePeriod]

/-- Whether a configuration passes one check of R5. `N/3` and `2N/3` are exact divisions (R7), so the offsets are
compared threefold: no offsets pass for an `N` that 3 does not divide. -/
def CfgCheck.passes (c : Cfg) : CfgCheck → Bool
  | .nPos => decide (1 ≤ c.n)
  | .nDiv3 => decide (c.n % 3 = 0)
  | .offsets =>
    decide (c.phaseOffsets.a = 0 ∧ 3 * c.phaseOffsets.b = c.n ∧ 3 * c.phaseOffsets.c = 2 * c.n)
  | .periodPos => decide (1 ≤ c.carrierPeriod)
  | .tableLen => decide (c.sineTable.length = c.n)
  | .tableRange => (c.sineTable.take c.n).all fun v => decide (v ≤ c.dutyMax)
  | .dutyLePeriod => decide (c.dutyMax ≤ c.carrierPeriod)

/-- The first check, in R5's order, that a configuration fails; `none` when it is well-formed (log entry 2). -/
def Cfg.firstFailed (c : Cfg) : Option CfgCheck :=
  CfgCheck.inOrder.find? fun k => !k.passes c

/-- A configuration together with the fact that every check of R5 passes: "the model has no machine" for
any other (R5). A machine is built over one of these (log entries 1, 2). -/
structure WfCfg extends Cfg where
  wf : toCfg.firstFailed = none
deriving DecidableEq, Repr

/-- The reference configuration of R4 with the table left OPEN (R22): each sample is a free value confined to
[0, DUTY_MAX], so the table ranges over every table `WF_TABLE_LEN` and `WF_TABLE_RANGE` admit (log entry 4). -/
def Cfg.referenceOpen : Cfg :=
  { n := 60
    carrierPeriod := 100
    dutyMax := 100
    phaseOffsets := { a := 0, b := 20, c := 40 }
    sineTable := (List.range 60).map fun i => min (Config.sineSample i) 100
    carmodOrder := .any
    resetValues := .zero }

/-- The reference configuration with an open table passes R5's checks. -/
theorem Cfg.referenceOpen_firstFailed : Cfg.referenceOpen.firstFailed = none := by
  have hr : ∀ (l : List Nat), (l.map fun i => min (Config.sineSample i) 100).all
      (fun v => decide (v ≤ 100)) = true := by
    intro l; simp
  have ht : CfgCheck.passes Cfg.referenceOpen .tableRange = true := by
    simp only [CfgCheck.passes, Cfg.referenceOpen, ← List.map_take]
    exact hr _
  simp only [Cfg.firstFailed, CfgCheck.inOrder, List.find?, ht]
  simp [CfgCheck.passes, Cfg.referenceOpen]

/-- The reference configuration, as a machine carries it. -/
def WfCfg.reference : WfCfg :=
  { toCfg := Cfg.referenceOpen, wf := Cfg.referenceOpen_firstFailed }

end Sys2Proof
end

