-- ==== Sys2Proof/Machine/State.lean ====
section
/-! DEFINITION. The machine's state as plain data: the architectural state `S` of R10 (`Arch`), and beside it
the model's own carriers: the configuration, the words on the input ports, and the counter of free values.
Also the faults and refusals of R56 and the state after reset (R67). -/

namespace Sys2Proof.Machine

/-- The elements of R10 that can hold a number outside their range (R15). -/
inductive Element where
  | modIdx
  | carStep
  | dutyA
  | dutyB
  | dutyC
deriving DecidableEq, Repr

/-- The model-level faults of R56. None is a hardware exception (R55). A fault ends the step with no next
state, so none of the step's writes happens (R59). -/
inductive Fault where
  /-- `TickBeforeReset(op)`: raised by CAR, MOD and CARMOD when `live = 0` (R19). Safe: no claim can be proved
  of a run that ticks before reset. -/
  | tickBeforeReset (op : Instr)
  /-- `RomAddressOutOfRange(a)`: raised by `MemRead` for `a ≥ N` (R21). Safe: the address generator never gives
  such an address in a state within its ranges. -/
  | romAddressOutOfRange (a : Nat)
  /-- `StateOutOfRange(f)`: raised by CAR, MOD and CARMOD when element `f` is outside its range of R15. Safe: no
  such state is reachable from reset. -/
  | stateOutOfRange (f : Element)
deriving DecidableEq, Repr

/-- The refusals. -/
inductive Refusal where
  /-- An instruction with no meaning, rejected by its mnemonic in `exec`'s arm: no arm does so. Safe. -/
  | notModelled (mnemonic : String)
  /-- `ConfigIllFormed(check)`: raised by `State.construct` when the check of R5 fails (R56). Safe: there is no
  machine for that configuration. -/
  | configIllFormed (check : CfgCheck)
deriving DecidableEq, Repr

/-- The architectural state `S`: exactly the elements of R10's table. -/
structure Arch where
  /-- `mod_idx` (R11), in [0, N). -/
  modIdx : Nat
  /-- `car_step` (R12), in [0, CARRIER_PERIOD). -/
  carStep : Nat
  /-- `duty_a`, `duty_b`, `duty_c` (R13), each in [0, DUTY_MAX]. -/
  duty : Triple Nat
  /-- `phase_a`, `phase_b`, `phase_c` (R14). -/
  phase : Triple Bool
  /-- `live` (R19): reset has been applied. -/
  live : Bool
deriving DecidableEq, Repr

/-- One machine: `S` of R10, and the model's own carriers of what is not state in the spec. -/
structure State where
  /-- The configuration the machine was constructed with (R4); no step writes it (log entry 1). -/
  cfg : WfCfg
  /-- The architectural state of R10. -/
  arch : Arch
  /-- The words the platform presents on the input ports, this step's first (R31, R65; log entry 5). -/
  input : List InPorts
  /-- How many free values the run has used: the model's own counter (log entry 6). -/
  draws : Nat
deriving DecidableEq, Repr

/-- R67 under `RESET_VALUES = ZERO`: every element 0 and `live` 1. -/
def Arch.zeroLive : Arch :=
  { modIdx := 0
    carStep := 0
    duty := Triple.same 0
    phase := Triple.same false
    live := true }

/-- The machine right after reset (R67), built with the reference configuration of R4 and an open table, the
platform having presented nothing yet. -/
def State.reset : State :=
  { cfg := WfCfg.reference
    arch := Arch.zeroLive
    input := []
    draws := 0 }

end Sys2Proof.Machine
end

