-- ==== Sys2Proof/Machine/Ops.lean ====
section
/-! DEFINITION. The named operations over the state and the ports: named updates, sampling the input ports,
the output ports, construction and power-up, and the check every tick makes first. The block takes no
exception (R55), so there is no operation that enters or leaves one. -/

namespace Sys2Proof.Machine

/-- The state with its architectural part replaced (R8: all writes of a step take effect together). -/
def State.put (s : State) (r : Arch) : State :=
  { s with arch := r }

/-- The state after `k` more free values have been used (log entry 6). -/
def State.useDraws (s : State) (k : Nat) : State :=
  { s with draws := s.draws + k }

/-- The state with other words on its input ports. -/
def State.present (s : State) (trace : List InPorts) : State :=
  { s with input := trace }

/-- The port levels this step samples; nothing presented is no event (R52, R57; log entry 5). -/
def State.sampled (s : State) : InPorts :=
  match s.input with
  | [] => InPorts.idle
  | p :: _ => p

/-- The state once this step's event has been consumed (R57: there is no pending latch). -/
def State.consume (s : State) : State :=
  { s with input := s.input.tail }

/-- An output port (R17): it shows its phase element; before the first reset that element holds no value (R19)
and the port shows any value (U9), a free value (log entry 9). -/
def State.pin (s : State) (p : Phase) : Bool :=
  if s.arch.live then s.arch.phase.get p else Config.undefinedPin s.draws p

/-- The architectural state at power-up (R19): `live = 0` and every other element a free value. -/
def Arch.powerUp : Arch :=
  { modIdx := Config.powerUpNumber 0
    carStep := Config.powerUpNumber 1
    duty :=
      { a := Config.powerUpNumber 2
        b := Config.powerUpNumber 3
        c := Config.powerUpNumber 4 }
    phase :=
      { a := Config.powerUpBit 0
        b := Config.powerUpBit 1
        c := Config.powerUpBit 2 }
    live := false }

/-- A machine at power-up (R19) over a configuration that passed R5's checks. -/
def State.powerUp (c : WfCfg) : State :=
  { cfg := c
    arch := Arch.powerUp
    input := []
    draws := 0 }

/-- Construction (R5, R68 step 1): an ill-formed configuration is refused by the name of the check it fails;
a well-formed one gives a machine at power-up. -/
def State.construct (c : Cfg) : Host.Outcome State Fault Refusal :=
  match h : c.firstFailed with
  | some k => .refused (.configIllFormed k)
  | none => .next (State.powerUp { toCfg := c, wf := h })

/-- The check CAR, MOD and CARMOD make before anything else (R58): a tick before reset faults (R19). -/
def requireLive (op : Instr) (r : Arch) : Except Fault Unit :=
  if r.live then .ok () else .error (.tickBeforeReset op)

/-- A step's outcome from what its operation answers: a fault, or the state with the new elements. -/
def State.finish (s : State) : Except Fault Arch → Host.Outcome State Fault Refusal
  | .error f => .fault f
  | .ok r => .next (s.put r)

end Sys2Proof.Machine
end

