-- ==== Sys2Proof/Machine/Operands.lean ====
section
/-! DEFINITION. Where an operation's values come from (R33: state and configuration, never the event word):
the state elements, each read within its range, and the sine table ROM. -/

namespace Sys2Proof.Machine

/-- `mod_idx`, read within its range (R15, R56). -/
def readModIdx (c : WfCfg) (r : Arch) : Except Fault Nat :=
  if r.modIdx < c.n then .ok r.modIdx else .error (.stateOutOfRange .modIdx)

/-- `car_step`, read within its range (R15, R56). -/
def readCarStep (c : WfCfg) (r : Arch) : Except Fault Nat :=
  if r.carStep < c.carrierPeriod then .ok r.carStep else .error (.stateOutOfRange .carStep)

/-- The duty triple, all three read together (R13, R28), each within its range (R15, R56). -/
def readDuty (c : WfCfg) (r : Arch) : Except Fault (Triple Nat) :=
  if c.dutyMax < r.duty.a then .error (.stateOutOfRange .dutyA)
  else if c.dutyMax < r.duty.b then .error (.stateOutOfRange .dutyB)
  else if c.dutyMax < r.duty.c then .error (.stateOutOfRange .dutyC)
  else .ok r.duty

/-- The table has exactly `N` entries (`WF_TABLE_LEN`). -/
theorem wf_table_length (c : WfCfg) : c.sineTable.length = c.n := by
  have h := c.wf
  simp only [Cfg.firstFailed, List.find?_eq_none] at h
  have := h .tableLen (by simp [CfgCheck.inOrder])
  simpa [CfgCheck.passes] using this

/-- `MemRead(a, 1)` (R21): the whole word at address `a` of the sine table ROM, a fault outside it. -/
def memRead (c : WfCfg) (a : Nat) : Except Fault Nat :=
  if h : a < c.n then .ok (c.sineTable[a]'(by rw [wf_table_length]; exact h))
  else .error (.romAddressOutOfRange a)

end Sys2Proof.Machine
end

