-- ==== Sys2Proof/Machine/Carrier.lean ====
section
/-! DEFINITION. The carrier family: the carrier step counter (R37), the comparator (R38) and CAR (R39). -/

namespace Sys2Proof.Machine

/-- The carrier step counter (R37): one up, and back to 0 on reaching `CARRIER_PERIOD`. -/
def nextStep (c : WfCfg) (s : Nat) : Nat :=
  if s + 1 = c.carrierPeriod then 0 else s + 1

/-- `pwm_carrier_comparator` (R38): unsigned, strict. -/
def phaseCmp (s d : Nat) : Bool :=
  decide (s < d)

/-- The three comparators against one step value (R38). -/
def comparePhases (s : Nat) (duty : Triple Nat) : Triple Bool :=
  duty.map (phaseCmp s)

/-- What CAR reads, each element within its range: `car_step` and the three duties (R39). -/
def checkCarReads (c : WfCfg) (r : Arch) : Except Fault Unit := do
  let _ ← readCarStep c r
  let _ ← readDuty c r
  return ()

/-- The writes of CAR (R39): the step advances, and the phases compare the step AFTER its increment. -/
def carWrites (c : WfCfg) (r : Arch) : Arch :=
  { r with
    carStep := nextStep c r.carStep
    phase := comparePhases (nextStep c r.carStep) r.duty }

/-- CAR on the architectural state (R39). -/
def carOp (c : WfCfg) (r : Arch) : Except Fault Arch := do
  requireLive .car r
  checkCarReads c r
  return carWrites c r

/-- `CAR` (R39). -/
def execCar (s : State) : Host.Outcome State Fault Refusal :=
  s.finish (carOp s.cfg s.arch)

end Sys2Proof.Machine
end

