-- ==== Sys2Proof/Machine/Modulation.lean ====
section
/-! DEFINITION. The modulation family: the offset selector (R43), the table-address generator (R44), the duty
generator (R45), the modulation counter (R46) and MOD (R47). -/

namespace Sys2Proof.Machine

/-- `phase_offset_selector` (R43): three configuration constants. -/
def off (c : WfCfg) (p : Phase) : Nat :=
  c.phaseOffsets.get p

/-- The table-address generator (R44): one conditional subtraction. -/
def addr (c : WfCfg) (i o : Nat) : Nat :=
  if c.n ≤ i + o then i + o - c.n else i + o

/-- `three_phase_duty_gen` (R45): three ROM reads, all from the same index. -/
def gen (c : WfCfg) (i : Nat) : Except Fault (Triple Nat) := do
  let da ← memRead c (addr c i (off c .a))
  let db ← memRead c (addr c i (off c .b))
  let dc ← memRead c (addr c i (off c .c))
  return { a := da, b := db, c := dc }

/-- `modulation_scheduler_counter` (R46). -/
def nextIdx (c : WfCfg) (i : Nat) : Nat :=
  if i + 1 = c.n then 0 else i + 1

/-- What MOD reads: the index within its range, and the triple sampled at it before it advances (R47, R48). -/
def sampleTriple (c : WfCfg) (r : Arch) : Except Fault (Triple Nat) := do
  let i ← readModIdx c r
  gen c i

/-- The writes of MOD (R47): the sampled triple, and the index advanced. -/
def modWrites (c : WfCfg) (sampled : Triple Nat) (r : Arch) : Arch :=
  { r with
    duty := sampled
    modIdx := nextIdx c r.modIdx }

/-- MOD on the architectural state (R47). -/
def modOp (c : WfCfg) (r : Arch) : Except Fault Arch := do
  requireLive .mod r
  let t ← sampleTriple c r
  return modWrites c t r

/-- `MOD` (R47). -/
def execMod (s : State) : Host.Outcome State Fault Refusal :=
  s.finish (modOp s.cfg s.arch)

end Sys2Proof.Machine
end

