-- ==== Sys2Proof/Machine/Control.lean ====
section
/-! DEFINITION. The control family: NOP (R52), CARMOD (R53) and RST (R54, R67). -/

namespace Sys2Proof.Machine

/-- `NOP` (R52): the state is unchanged, also before the first reset. -/
def execNop (s : State) : Host.Outcome State Fault Refusal :=
  .next s

/-- The two serial orders of a step with both triggers (R53). -/
inductive SerialOrder where
  | carFirst
  | modFirst
deriving DecidableEq, Repr

/-- `ADMITTED_ORDERS` (R53). -/
def admittedOrders : CarmodOrder → List SerialOrder
  | .any => [.carFirst, .modFirst]
  | .carFirst => [.carFirst]
  | .modFirst => [.modFirst]

/-- The order the CARMOD that reads draw `k` performs: the configured one, and under `ANY` a free choice
(R53; log entry 6). -/
def chosenOrder (c : WfCfg) (k : Nat) : SerialOrder :=
  match c.carmodOrder with
  | .any => if Config.carFirstDraw k then .carFirst else .modFirst
  | .carFirst => .carFirst
  | .modFirst => .modFirst

/-- The writes of CAR and MOD, one after the other (R53). Neither order changes what MOD samples, since CAR
does not write `mod_idx` (R39). -/
def serialWrites (c : WfCfg) (sampled : Triple Nat) (r : Arch) : SerialOrder → Arch
  | .carFirst => modWrites c sampled (carWrites c r)
  | .modFirst => carWrites c (modWrites c sampled r)

/-- CARMOD on the architectural state, in a given order (R53); what CAR and MOD read is checked first
(log entry 3). -/
def carmodOp (c : WfCfg) (o : SerialOrder) (r : Arch) : Except Fault Arch := do
  requireLive .carmod r
  checkCarReads c r
  let t ← sampleTriple c r
  return serialWrites c t r o

/-- `CARMOD` (R53); it uses one free value. -/
def execCarmod (s : State) : Host.Outcome State Fault Refusal :=
  (s.useDraws 1).finish (carmodOp s.cfg (chosenOrder s.cfg s.draws) s.arch)

/-- A free number up to `top`, from draw `k` (R67 under `RESET_VALUES = ANY`). -/
def drawUpTo (top k : Nat) : Nat :=
  Config.resetNumber k % (top + 1)

/-- The elements after reset under `RESET_VALUES = ANY` (R67): `mod_idx` 0 and `live` 1, the rest free draws
within their ranges, from the draws `k` on (log entry 7). -/
def Arch.drawnLive (c : WfCfg) (k : Nat) : Arch :=
  { modIdx := 0
    carStep := drawUpTo (c.carrierPeriod - 1) k
    duty :=
      { a := drawUpTo c.dutyMax (k + 1)
        b := drawUpTo c.dutyMax (k + 2)
        c := drawUpTo c.dutyMax (k + 3) }
    phase :=
      { a := Config.resetBit k
        b := Config.resetBit (k + 1)
        c := Config.resetBit (k + 2) }
    live := true }

/-- The elements after reset (R54, R67). -/
def rstWrites (c : WfCfg) (k : Nat) : Arch :=
  match c.resetValues with
  | .zero => Arch.zeroLive
  | .any => Arch.drawnLive c k

/-- `RST` (R54): reads no element and writes every one; it uses four free values. -/
def execRst (s : State) : Host.Outcome State Fault Refusal :=
  .next ((s.useDraws 4).put (rstWrites s.cfg s.draws))

end Sys2Proof.Machine
end

