-- ==== Sys2Proof/Machine/Dispatch.lean ====
section
/-! DEFINITION. The one dispatch: each operation of R32 to its meaning. -/

namespace Sys2Proof.Machine

def exec (i : Instr) (s : State) : Host.Outcome State Fault Refusal :=
  match i with
  | .nop => Sys2Proof.Machine.execNop s
  | .car => Sys2Proof.Machine.execCar s
  | .mod => Sys2Proof.Machine.execMod s
  | .carmod => Sys2Proof.Machine.execCarmod s
  | .rst => Sys2Proof.Machine.execRst s

end Sys2Proof.Machine
end

