-- ==== Sys2Proof/Machine/Step.lean ====
section
/-! DEFINITION. One step (R9, R31): the input ports are sampled, their event word is decoded, and the operation
is performed; the event is consumed by the step (R57). -/

namespace Sys2Proof.Machine

/-- One step of the block (R9). -/
def step (s : State) : Host.Outcome State Fault Refusal :=
  exec (decode s.sampled.word) s.consume

/-- The state with a table word's event on the input ports in the next step, in place of what the platform
presents there (log entry 10). -/
def State.withFetchWord (s : State) (nbits w : Nat) : State :=
  s.present (InPorts.ofWord (BitVec.ofNat 3 (w % 2 ^ nbits)) :: s.input.tail)

end Sys2Proof.Machine
end

