-- ==== Sys2Proof/Machine/Assembly.lean ====
section
/-! DEFINITION. The textual syntax of R36: statements, their expansion into event words, the reading of a
program's text, and disassembly. A program is an input trace (R31, R36): nothing here is stored in the machine. -/

namespace Sys2Proof.Machine

/-- A statement of R36's table. -/
inductive Stmt where
  /-- `NOP`, `CAR`, `MOD`, `CARMOD`, `RST`: one event. -/
  | one (i : Instr)
  /-- `NOP k`, `CAR k`, `MOD k`, `CARMOD k`: `k` copies of the event. -/
  | times (i : Instr) (k : Nat)
  /-- `CYCLE`: one full carrier cycle. -/
  | cycle
  /-- `ENVELOPE`: one full modulation cycle. -/
  | envelope
deriving DecidableEq, Repr

/-- R36's conditions on a statement: `k >= 1`, and `RST` has no repeated form. -/
def Stmt.wellFormed : Stmt → Bool
  | .one _ => true
  | .times i k => decide (i ≠ .rst) && decide (1 ≤ k)
  | .cycle => true
  | .envelope => true

/-- The events a statement stands for (R36, "expands to"). -/
def Stmt.events (c : Cfg) : Stmt → List Instr
  | .one i => [i]
  | .times i k => List.replicate k i
  | .cycle => List.replicate c.carrierPeriod .car
  | .envelope => List.replicate c.n .mod

/-- A program's encoding (R36): the list of its event words in order. -/
def assemble (c : Cfg) (program : List Stmt) : List EventWord :=
  (program.flatMap (Stmt.events c)).map encode

/-- The port levels that present a list of event words, one a step (R31). -/
def traceOf (words : List EventWord) : List InPorts :=
  words.map InPorts.ofWord

/-- The operations a list of event words disassembles to (R36: `101`, `110`, `111` disassemble as `RST`). -/
def disassemble (words : List EventWord) : List Instr :=
  words.map decode

/-- The mnemonic of an operation (R36), as its letters. -/
def mnemonic : Instr → List Char
  | .nop => ['N', 'O', 'P']
  | .car => ['C', 'A', 'R']
  | .mod => ['M', 'O', 'D']
  | .carmod => ['C', 'A', 'R', 'M', 'O', 'D']
  | .rst => ['R', 'S', 'T']

/-- The operation a mnemonic names. -/
def readMnemonic (w : List Char) : Option Instr :=
  [Instr.nop, .car, .mod, .carmod, .rst].find? fun i => mnemonic i == w

/-- The maximal runs of characters that are no separator, empty runs kept; `run` is the present one, reversed. -/
def pieces (sep : Char → Bool) (run : List Char) : List Char → List (List Char)
  | [] => [run.reverse]
  | x :: rest => if sep x then run.reverse :: pieces sep [] rest else pieces sep (x :: run) rest

/-- A character as a decimal digit. -/
def readDigit (x : Char) : Option Nat :=
  if 48 ≤ x.toNat ∧ x.toNat ≤ 57 then some (x.toNat - 48) else none

/-- Decimal digits read onto a number already read. -/
def readDigits (acc : Nat) : List Char → Option Nat
  | [] => some acc
  | x :: rest =>
    match readDigit x with
    | some d => readDigits (10 * acc + d) rest
    | none => none

/-- A statement from the words of its line; `none` where they are no well-formed statement of R36. -/
def readWords : List (List Char) → Option Stmt
  | [w] =>
    if w == ['C', 'Y', 'C', 'L', 'E'] then some .cycle
    else if w == ['E', 'N', 'V', 'E', 'L', 'O', 'P', 'E'] then some .envelope
    else (readMnemonic w).map .one
  | [w, k] =>
    match readMnemonic w, readDigits 0 k with
    | some i, some n => if (Stmt.times i n).wellFormed then some (.times i n) else none
    | _, _ => none
  | _ => none

/-- The words of a line, its comment from `;` on left out (R36; log entry 13 for what separates words). -/
def lineWords (line : List Char) : List (List Char) :=
  (pieces (fun x => x == ' ' || x == '\t') [] (line.takeWhile (· != ';'))).filter (!·.isEmpty)

/-- A program from its lines: one statement a line, a line with no word left out (R36). -/
def readLines : List (List Char) → Option (List Stmt)
  | [] => some []
  | line :: rest =>
    match lineWords line with
    | [] => readLines rest
    | ws =>
      match readWords ws, readLines rest with
      | some st, some sts => some (st :: sts)
      | _, _ => none

/-- A program from its text (R36); `none` where a line is no statement. -/
def readProgram (text : List Char) : Option (List Stmt) :=
  readLines (pieces (· == '\n') [] text)

end Sys2Proof.Machine
end

