-- ==== Sys2Proof/Machine/Tables.lean ====
section
/-! DEFINITION. The table instance and the table predicates R22 and R51 name for claims and tests. None is
assumed of a machine: the sine table is open (R22). -/

namespace Sys2Proof.Machine

/-- `FORMULA_TABLE` (R22), its rows as the rule prints them. -/
def formulaTable : List Nat :=
  [50, 55, 60, 65, 70, 75, 79, 83, 87, 90] ++
  [93, 96, 98, 99, 100, 100, 100, 99, 98, 96] ++
  [93, 90, 87, 83, 79, 75, 70, 65, 60, 55] ++
  [50, 45, 40, 35, 30, 25, 21, 17, 13, 10] ++
  [7, 4, 2, 1, 0, 0, 0, 1, 2, 4] ++
  [7, 10, 13, 17, 21, 25, 30, 35, 40, 45]

/-- `REF_FRAGMENT` (R22): the five values the source lists. -/
def refFragment (table : List Nat) : Bool :=
  decide (table[0]? = some 50 ∧ table[1]? = some 53 ∧ table[2]? = some 56 ∧
    table[20]? = some 99 ∧ table[40]? = some 0)

/-- `TABLE_SYMMETRIC(tol)` (R51): the mean of the table is within `tol` of half of `DUTY_MAX`. The tolerance
is the claim's to name (log entry 14). -/
def TableSymmetric (c : Cfg) (tol : ℚ) : Prop :=
  |(c.sineTable.sum : ℚ) / (c.n : ℚ) - (c.dutyMax : ℚ) / 2| ≤ tol

/-- The reference configuration of R4 with a given table in place of the open one. -/
def referenceWith (table : List Nat) : Cfg :=
  { Cfg.referenceOpen with sineTable := table }

end Sys2Proof.Machine
end

