-- ==== Sys2Proof/Machine/Widths.lean ====
section
/-! DEFINITION. The register widths R6 derives from the parameters. No operation depends on one: the state
elements are naturals confined to their ranges (R6, R15; log entry 3). -/

namespace Sys2Proof.Machine

/-- The first width, from `w` on and within `fuel` tries, whose power of two reaches `x`. -/
def clog2From (x w : Nat) : Nat → Nat
  | 0 => w
  | fuel + 1 => if x ≤ 2 ^ w then w else clog2From x (w + 1) fuel

/-- R6's `clog2(x)`: the least `w` with `2^w >= x`. -/
def clog2 (x : Nat) : Nat :=
  clog2From x 0 x

/-- `W_IDX` (R6): the width of the modulation index and of a table address. -/
def widthIdx (c : Cfg) : Nat :=
  max 1 (clog2 c.n)

/-- `W_STEP` (R6): the width of the carrier step. -/
def widthStep (c : Cfg) : Nat :=
  max 1 (clog2 c.carrierPeriod)

/-- `W_DUTY` (R6): the width of a duty value and of a table word. -/
def widthDuty (c : Cfg) : Nat :=
  max 1 (clog2 (c.dutyMax + 1))

/-- The bits of visible state (R10): the model-only `live` is not counted. -/
def visibleBits (c : Cfg) : Nat :=
  widthIdx c + widthStep c + 3 * widthDuty c + 3

end Sys2Proof.Machine
end

