-- ==== Sys2Proof/Safety.lean ====
section
/-! DEFINITION. What claims are stated in: the range invariant (R15), the states in which every operation
completes, whole duty triples (R28), boot order (R68), and the number of ticks in a trace. -/

namespace Sys2Proof.Machine

/-- The condition column of R5's table, `N/3` and `2N/3` exact (R7). -/
def checkCondition (c : Cfg) : CfgCheck → Prop
  | .nPos => 1 ≤ c.n
  | .nDiv3 => c.n % 3 = 0
  | .offsets =>
    c.phaseOffsets.a = 0 ∧ 3 * c.phaseOffsets.b = c.n ∧ 3 * c.phaseOffsets.c = 2 * c.n
  | .periodPos => 1 ≤ c.carrierPeriod
  | .tableLen => c.sineTable.length = c.n
  | .tableRange => ∀ i v, i < c.n → c.sineTable[i]? = some v → v ≤ c.dutyMax
  | .dutyLePeriod => c.dutyMax ≤ c.carrierPeriod

/-- Every element within its range (R15). -/
abbrev Arch.InRange (c : WfCfg) (r : Arch) : Prop :=
  r.modIdx < c.n ∧ r.carStep < c.carrierPeriod ∧
    r.duty.a ≤ c.dutyMax ∧ r.duty.b ≤ c.dutyMax ∧ r.duty.c ≤ c.dutyMax

/-- The range invariant: once reset has been applied, every element is within its range (R15). Before that
the elements hold no value (R19). -/
abbrev State.RangeInv (s : State) : Prop :=
  s.arch.live = true → s.arch.InRange s.cfg

/-- Reset has been applied and every element is within its range: every operation executes normally
(R39, R47, R53 "otherwise none"). -/
abbrev State.Running (s : State) : Prop :=
  s.arch.live = true ∧ s.arch.InRange s.cfg

/-- The index MOD sampled last, if `i` is the present one (R46, R48). -/
def prevIdx (c : WfCfg) (i : Nat) : Nat :=
  if i = 0 then c.n - 1 else i - 1

/-- The duty triple is the reset triple with no MOD since, or the whole triple MOD sampled at the index before
the present one (R28, R48). -/
def State.LastSample (s : State) : Prop :=
  s.arch.live = true →
    (s.arch.modIdx = 0 ∧ s.arch.duty = Triple.same 0) ∨
      gen s.cfg (prevIdx s.cfg s.arch.modIdx) = .ok s.arch.duty

/-- A triple of one generation: the reset triple, or all three samples of one index (R28). -/
def OneGeneration (c : WfCfg) (t : Triple Nat) : Prop :=
  t = Triple.same 0 ∨ ∃ i, i < c.n ∧ gen c i = .ok t

/-- No phase mixes generations: the three phases compare the present step with one triple of one
generation (R28), and the triple the next CAR will compare with is one as well. -/
def State.Untorn (s : State) : Prop :=
  s.arch.live = true →
    OneGeneration s.cfg s.arch.duty ∧
      ∃ t, OneGeneration s.cfg t ∧ s.arch.phase = comparePhases s.arch.carStep t

/-- Whether an operation advances the carrier step. -/
def ticksCarrier : Instr → Bool
  | .nop => false
  | .car => true
  | .mod => false
  | .carmod => true
  | .rst => false

/-- Whether an operation advances the modulation index. -/
def ticksModulation : Instr → Bool
  | .nop => false
  | .car => false
  | .mod => true
  | .carmod => true
  | .rst => false

/-- The operations a trace of port levels selects, one a step (R31, R32). -/
def eventsOf (trace : List InPorts) : List Instr :=
  trace.map fun p => decode p.word

/-- The first `k` events a machine will see; it sees no event once the trace has ended. -/
def State.nextEvents (s : State) (k : Nat) : List Instr :=
  eventsOf (s.input.take k)

/-- R68 step 2: no tick is presented before the first RST. -/
def bootOrdered : List Instr → Bool
  | [] => true
  | .nop :: rest => bootOrdered rest
  | .car :: _ => false
  | .mod :: _ => false
  | .carmod :: _ => false
  | .rst :: _ => true

/-- `k` steps of the machine from `s` end in the state `t`. -/
def State.RunsTo (s : State) (k : Nat) (t : State) : Prop :=
  Sys2Proof.core.run k s = .next t

end Sys2Proof.Machine
end

