-- ==== Sys2Proof/Certificates/Slice0/Obligations.lean ====
section
/-! DEFINITION. The statements for the provers. Each docstring names the rule of spec/ it comes from; where a
clause rests on a decision of the spec or of the model, the docstring says so. -/

open Sys2Proof Sys2Proof.Machine

/-! ### Encoding and the step -/

/-- R31: the event word is `{rst, mod_tick, car_tick}`, and port levels and words determine each other. -/
def Obligations.PortsFormEventWord : Prop :=
  (∀ p : InPorts, p.word.getLsbD 2 = p.rst ∧ p.word.getLsbD 1 = p.modTick ∧ p.word.getLsbD 0 = p.carTick) ∧
    (∀ p : InPorts, InPorts.ofWord p.word = p) ∧ ∀ e : EventWord, (InPorts.ofWord e).word = e

/-- R32: the eight event words, by the decoder and by the table's masks and matches; and R36's canonical words. -/
def Obligations.EventWordsDecodeAsTabled : Prop :=
  decode 0b000#3 = .nop ∧ decode 0b001#3 = .car ∧ decode 0b010#3 = .mod ∧ decode 0b011#3 = .carmod ∧
    decode 0b100#3 = .rst ∧ decode 0b101#3 = .rst ∧ decode 0b110#3 = .rst ∧ decode 0b111#3 = .rst ∧
    (∀ (i : Instr) (e : EventWord), decode e = i ↔ e &&& i.mask = i.pattern) ∧
    encode .nop = 0b000#3 ∧ encode .car = 0b001#3 ∧ encode .mod = 0b010#3 ∧ encode .carmod = 0b011#3 ∧
    encode .rst = 0b100#3

/-- R36: presenting an assembled program's words on the ports and decoding them, or disassembling them, gives
back exactly the events its statements stand for; no event is dropped, added or reordered. -/
def Obligations.AssembledProgramDecodesToItsEvents : Prop :=
  ∀ (c : Cfg) (program : List Stmt),
    disassemble (assemble c program) = program.flatMap (Stmt.events c) ∧
      eventsOf (traceOf (assemble c program)) = program.flatMap (Stmt.events c)

/-- R36's table: what each statement assembles to. -/
def Obligations.StatementsExpandAsTabled : Prop :=
  ∀ (c : Cfg) (k : Nat),
    assemble c [.one .nop, .one .car, .one .mod, .one .carmod, .one .rst] =
        [0b000#3, 0b001#3, 0b010#3, 0b011#3, 0b100#3] ∧
      assemble c [.times .nop k] = List.replicate k 0b000#3 ∧
      assemble c [.times .car k] = List.replicate k 0b001#3 ∧
      assemble c [.times .mod k] = List.replicate k 0b010#3 ∧
      assemble c [.times .carmod k] = List.replicate k 0b011#3 ∧
      assemble c [.cycle] = List.replicate c.carrierPeriod 0b001#3 ∧
      assemble c [.envelope] = List.replicate c.n 0b010#3

/-- R9, R31: one step samples the port levels presented for it, decodes their event word, and performs that
operation; the event is consumed and the words presented for later steps stay. -/
def Obligations.StepRunsDecodedEvent : Prop :=
  ∀ (s : State) (p : InPorts) (rest : List InPorts), s.input = p :: rest →
    step s = exec (decode p.word) { s with input := rest }

/-- The model's choice (log entry 5, resting on R52 "a trigger that does not fire is simply absent"): a step in
which the platform presents nothing changes nothing. -/
def Obligations.StepWithNothingPresentedIsIdle : Prop :=
  ∀ s : State, s.input = [] → step s = .next s

/-- R32, R58 (the spec's decision D4): a step with `rst` on its port is RST, whatever the two ticks are. -/
def Obligations.ResetRequestDiscardsTicks : Prop :=
  ∀ (s : State) (m k : Bool) (rest : List InPorts),
    s.input = { rst := true, modTick := m, carTick := k } :: rest →
      step s = exec .rst { s with input := rest }

/-- Log entry 10: a table word placed on the ports is the operation the next step performs. -/
def Obligations.FetchedTableWordRuns : Prop :=
  ∀ (s : State) (w : Nat) (i : Instr), w < 8 → decodeTableWord 8 w = some i →
    step (s.withFetchWord 8 w) = exec i { s with input := s.input.tail }

/-! ### Configuration, widths, table -/

/-- R5: construction gives a machine at power-up exactly when every check holds (then `N >= 3`), and refuses
any other configuration by the name of a check that fails. (Which of several is the model's choice, log entry 2.) -/
def Obligations.ConstructionAcceptsExactlyWellFormed : Prop :=
  ∀ c : Cfg,
    ((∀ k, checkCondition c k) → 3 ≤ c.n ∧
      ∃ w : WfCfg, w.toCfg = c ∧ State.construct c = .next (State.powerUp w)) ∧
    ((¬ ∀ k, checkCondition c k) →
      ∃ k, ¬ checkCondition c k ∧ State.construct c = .refused (.configIllFormed k))

/-- R6: `clog2(x)` is the least width whose power of two reaches `x`; every element's range fits its width,
and a width is never 0. -/
def Obligations.WidthsAreLeastAndFit : Prop :=
  (∀ x, x ≤ 2 ^ clog2 x ∧ ∀ w, x ≤ 2 ^ w → clog2 x ≤ w) ∧
    ∀ c : WfCfg,
      (1 ≤ widthIdx c.toCfg ∧ ∀ i, i < c.n → i < 2 ^ widthIdx c.toCfg) ∧
      (1 ≤ widthStep c.toCfg ∧ ∀ x, x < c.carrierPeriod → x < 2 ^ widthStep c.toCfg) ∧
      (1 ≤ widthDuty c.toCfg ∧ ∀ d, d ≤ c.dutyMax → d < 2 ^ widthDuty c.toCfg)

/-- R20, R21: a read below `N` gives the whole table word at that address, in [0, DUTY_MAX]; any other address
faults (the spec's decision D15); the address generator never gives such an address. -/
def Obligations.MemReadReturnsTableWord : Prop :=
  ∀ (c : WfCfg) (a : Nat),
    (a < c.n → ∃ v, c.sineTable[a]? = some v ∧ memRead c a = .ok v ∧ v ≤ c.dutyMax) ∧
    (c.n ≤ a → memRead c a = .error (.romAddressOutOfRange a)) ∧
    ∀ i o, i < c.n → o < c.n → addr c i o < c.n

/-- R22, R51 (facts the spec derives): FORMULA_TABLE makes a well-formed reference configuration, sums to 3000,
is symmetric with tolerance 0, and is not the source's fragment. -/
def Obligations.FormulaTableFacts : Prop :=
  (∀ k, checkCondition (referenceWith formulaTable) k) ∧ formulaTable.sum = 3000 ∧
    TableSymmetric (referenceWith formulaTable) 0 ∧ refFragment formulaTable = false

/-! ### The whole machine -/

/-- R15, one step from any state: a step keeps every element within its range. -/
def Obligations.StepKeepsRanges : Prop :=
  ∀ s t : State, s.RangeInv → step s = .next t → t.RangeInv

/-- R15 (derived in the spec): in every run of every constructed machine, whatever the platform presents, every
element is within its range from the first reset on. -/
def Obligations.EveryRunStaysInRange : Prop :=
  ∀ (c : Cfg) (s t : State) (trace : List InPorts) (k : Nat),
    State.construct c = .next s → (s.present trace).RunsTo k t → t.arch.live = true →
      t.arch.modIdx < c.n ∧ t.arch.carStep < c.carrierPeriod ∧
        ∀ p, t.arch.duty.get p ≤ c.dutyMax

/-- The range invariant, the whole-triple invariants and the range premise at reset and at power-up. The values of
`State.reset` rest on the spec's decision D5 (log entry 8), its configuration on the model's choice (log entry 4). -/
def Obligations.InvariantsHoldAtResetAndPowerUp : Prop :=
  State.reset.RangeInv ∧ State.reset.Running ∧ State.reset.LastSample ∧ State.reset.Untorn ∧
    ∀ c : WfCfg, (State.powerUp c).RangeInv ∧ (State.powerUp c).LastSample ∧ (State.powerUp c).Untorn

/-- R10 to R14, R17, R18, R20: who writes what. `mod_idx` and the duties change only by MOD, CARMOD, RST; `car_step`
and the phases (and so the output ports) only by CAR, CARMOD, RST; `live` only by RST; the configuration, the ROM
and the words still to be presented never. -/
def Obligations.OnlyTheNamedWritersWrite : Prop :=
  ∀ (i : Instr) (s t : State), exec i s = .next t →
    (i ∉ [Instr.mod, .carmod, .rst] → t.arch.modIdx = s.arch.modIdx ∧ t.arch.duty = s.arch.duty) ∧
    (i ∉ [Instr.car, .carmod, .rst] →
      t.arch.carStep = s.arch.carStep ∧ t.arch.phase = s.arch.phase ∧ ∀ p, t.pin p = s.pin p) ∧
    (i ≠ .rst → t.arch.live = s.arch.live) ∧
    t.cfg = s.cfg ∧ t.input = s.input ∧ ∀ a, memRead t.cfg a = memRead s.cfg a

/-- R11: `mod_idx` is initialised to 0 by reset, goes up by one modulo `N` on every modulation tick, stays below `N`
there, is written nowhere else, and CAR and RST do not read it. -/
def Obligations.ModIdxLifecycle : Prop :=
  (∀ (i : Instr) (s t : State), exec i s = .next t →
    (i = .rst → t.arch.modIdx = 0) ∧
    (i = .mod ∨ i = .carmod → t.arch.modIdx = (s.arch.modIdx + 1) % s.cfg.n) ∧
    (i = .rst ∨ i = .mod ∨ i = .carmod → t.arch.modIdx < s.cfg.n) ∧
    (i = .nop ∨ i = .car → t.arch.modIdx = s.arch.modIdx)) ∧
  ∀ (s t : State) (x : Nat),
    (exec .car s = .next t →
      exec .car (s.put { s.arch with modIdx := x }) = .next (t.put { t.arch with modIdx := x })) ∧
    (exec .rst s = .next t → exec .rst (s.put { s.arch with modIdx := x }) = .next t)

/-- R12, R14, R47: MOD reads neither `car_step` nor the phases, and they pass through it unchanged. -/
def Obligations.ModIgnoresCarrierHalf : Prop :=
  ∀ (s t : State) (x : Nat) (ph : Triple Bool),
    exec .mod s = .next t →
      exec .mod (s.put { s.arch with carStep := x, phase := ph }) =
        .next (t.put { t.arch with carStep := x, phase := ph })

/-- R17 (D24), R19, U9: after the first reset an output port shows its phase element; before it, any value: a free
value that no element of the state decides (the model's, log entry 9). -/
def Obligations.OutputPortsShowPhases : Prop :=
  ∀ (s : State) (p : Phase),
    (s.arch.live = true → s.pin p = s.arch.phase.get p) ∧
    (s.arch.live = false → s.pin p = Config.undefinedPin s.draws p ∧
      ∀ r : Arch, r.live = false → (s.put r).pin p = s.pin p)

/-- R28, R48, under `RESET_VALUES = ZERO`: at every step the duty triple is the reset triple with no MOD since, or
the whole triple of the index before the present one. -/
def Obligations.StepKeepsDutyLastSample : Prop :=
  ∀ s t : State, s.cfg.resetValues = .zero → s.LastSample → step s = .next t → t.LastSample

/-- R28 (§8), under `RESET_VALUES = ZERO`: no interleaving of ticks, in either order of CARMOD, ever gives phases
computed from a triple that mixes generations. -/
def Obligations.StepNeverTearsTheTriple : Prop :=
  ∀ s t : State, s.cfg.resetValues = .zero → s.Untorn → step s = .next t → t.Untorn

/-- R28, R70, whatever `RESET_VALUES` and `CARMOD_ORDER` are: a step that ticks the carrier compares all three phases
with one whole triple, the one the state held or the one sampled in that same step. -/
def Obligations.TickComparesOneWholeTriple : Prop :=
  ∀ (i : Instr) (s t : State), i = .car ∨ i = .carmod → exec i s = .next t →
    ∃ d : Triple Nat,
      (d = s.arch.duty ∨ (i = .carmod ∧ gen s.cfg s.arch.modIdx = .ok d ∧ t.arch.duty = d)) ∧
      ∀ p, t.arch.phase.get p = decide (t.arch.carStep < d.get p)

/-! ### Faults and completion -/

/-- R19, R56 (the spec's decision D6): a tick before reset faults with the operation's own name, before anything
else is checked. -/
def Obligations.TickBeforeResetFaults : Prop :=
  ∀ (s : State) (i : Instr), s.arch.live = false → i = .car ∨ i = .mod ∨ i = .carmod →
    exec i s = .fault (.tickBeforeReset i)

/-- R56: what a tick answers in a live state with an element it reads outside its range. Two things here are the
model's choice (log entry 3): the order in which several such elements are reported, and that CARMOD faults on the
old duties in either order, also when MOD is performed first and R53's `CAR(MOD(S))` never reads them. -/
def Obligations.OutOfRangeElementFaults : Prop :=
  ∀ s : State, s.arch.live = true →
    (∀ i, i = .car ∨ i = .carmod →
      (s.cfg.carrierPeriod ≤ s.arch.carStep → exec i s = .fault (.stateOutOfRange .carStep)) ∧
      (s.arch.carStep < s.cfg.carrierPeriod → s.cfg.dutyMax < s.arch.duty.a →
        exec i s = .fault (.stateOutOfRange .dutyA)) ∧
      (s.arch.carStep < s.cfg.carrierPeriod → s.arch.duty.a ≤ s.cfg.dutyMax →
        s.cfg.dutyMax < s.arch.duty.b → exec i s = .fault (.stateOutOfRange .dutyB)) ∧
      (s.arch.carStep < s.cfg.carrierPeriod → s.arch.duty.a ≤ s.cfg.dutyMax →
        s.arch.duty.b ≤ s.cfg.dutyMax → s.cfg.dutyMax < s.arch.duty.c →
        exec i s = .fault (.stateOutOfRange .dutyC))) ∧
    (s.cfg.n ≤ s.arch.modIdx → exec .mod s = .fault (.stateOutOfRange .modIdx)) ∧
    (s.arch.carStep < s.cfg.carrierPeriod → (∀ p, s.arch.duty.get p ≤ s.cfg.dutyMax) →
      s.cfg.n ≤ s.arch.modIdx → exec .carmod s = .fault (.stateOutOfRange .modIdx))

/-- R55: in a live state within its ranges every operation completes, and leaves such a state. -/
def Obligations.RunningMachineNeverStops : Prop :=
  ∀ (s : State) (i : Instr), s.Running → ∃ t, exec i s = .next t ∧ t.Running

/-- R63, R55: no event is ever refused, in any state, and a fault is one of R56's tick faults. -/
def Obligations.NoEventIsRefused : Prop :=
  ∀ (i : Instr) (s : State),
    (∀ r, exec i s ≠ .refused r) ∧
    (∀ f, exec i s = .fault f →
      (i = .car ∨ i = .mod ∨ i = .carmod) ∧
        ((s.arch.live = false ∧ f = .tickBeforeReset i) ∨
          (s.arch.live = true ∧ ∃ e, f = .stateOutOfRange e)))

/-- R68 step 2, R55: a machine that presents RST before the first tick, or is running already, never stops,
whatever else is presented and for however long. -/
def Obligations.BootOrderedRunsNeverStop : Prop :=
  ∀ (s : State) (k : Nat), s.RangeInv → (s.arch.live = true ∨ bootOrdered (eventsOf s.input) = true) →
    ∃ t, s.RunsTo k t ∧ t.RangeInv

/-- R68 step 2, R19: a machine before reset that is presented a tick first stops with TickBeforeReset. -/
def Obligations.TickFirstRunsStop : Prop :=
  ∀ s : State, s.arch.live = false → bootOrdered (eventsOf s.input) = false →
    ∃ k i, (i = .car ∨ i = .mod ∨ i = .carmod) ∧ Sys2Proof.core.run k s = .fault (.tickBeforeReset i)

/-! ### The carrier family -/

/-- R37: the carrier step counter and its corner cases. -/
def Obligations.CarrierStepCounter : Prop :=
  ∀ (c : WfCfg) (x : Nat), x < c.carrierPeriod →
    (x + 1 = c.carrierPeriod → nextStep c x = 0) ∧
    (x + 1 ≠ c.carrierPeriod → nextStep c x = x + 1) ∧
    nextStep c x < c.carrierPeriod ∧
    (c.carrierPeriod = 1 → nextStep c 0 = 0)

/-- R37, R44 (what the spec derives there): the carrier counter is an increment modulo `CARRIER_PERIOD` whose value
before the wrap fits its comparison, and an address sum fits one bit more than `W_IDX`. -/
def Obligations.CounterArithmeticNeverOverflows : Prop :=
  ∀ c : WfCfg,
    (∀ x, x < c.carrierPeriod → nextStep c x = (x + 1) % c.carrierPeriod ∧
      x + 1 ≤ c.carrierPeriod ∧ c.carrierPeriod ≤ 2 ^ widthStep c.toCfg) ∧
    ∀ i o, i < c.n → o < c.n → i + o < 2 * c.n ∧ i + o < 2 ^ (widthIdx c.toCfg + 1)

/-- R38: the comparator and its corner cases. -/
def Obligations.ComparatorIsStrictUnsigned : Prop :=
  ∀ s d : Nat, (phaseCmp s d = true ↔ s < d) ∧ phaseCmp s 0 = false ∧ phaseCmp d d = false ∧
    (∀ period, s < period → period ≤ d → phaseCmp s d = true) ∧
    ∀ (duty : Triple Nat) (p : Phase), (comparePhases s duty).get p = phaseCmp s (duty.get p)

/-- R39: CAR. Before reset it faults; else the step advances, the three phases compare the advanced step with the
three duties, and nothing else changes. -/
def Obligations.CarTick : Prop :=
  ∀ s : State,
    (s.arch.live = false → exec .car s = .fault (.tickBeforeReset .car)) ∧
    (s.arch.live = true → s.arch.carStep < s.cfg.carrierPeriod →
      (∀ p, s.arch.duty.get p ≤ s.cfg.dutyMax) →
      exec .car s = .next { s with
        arch := { s.arch with
          carStep := (s.arch.carStep + 1) % s.cfg.carrierPeriod
          phase :=
            { a := decide ((s.arch.carStep + 1) % s.cfg.carrierPeriod < s.arch.duty.a)
              b := decide ((s.arch.carStep + 1) % s.cfg.carrierPeriod < s.arch.duty.b)
              c := decide ((s.arch.carStep + 1) % s.cfg.carrierPeriod < s.arch.duty.c) } } })

/-- R40 (derived in the spec), R74's premise: over any `CARRIER_PERIOD` consecutive CAR steps the carrier step takes
every value exactly once, the duties stay, and each phase is 1 after exactly as many of them as its duty. -/
def Obligations.CarrierFidelity : Prop :=
  ∀ s : State, s.Running →
    s.nextEvents s.cfg.carrierPeriod = List.replicate s.cfg.carrierPeriod .car →
    ∃ t : Nat → State,
      (∀ k, k ≤ s.cfg.carrierPeriod → s.RunsTo k (t k) ∧ (t k).arch.duty = s.arch.duty) ∧
      (∀ v, v < s.cfg.carrierPeriod →
        ∃! k, k < s.cfg.carrierPeriod ∧ (t (k + 1)).arch.carStep = v) ∧
      ∀ p, ((List.range s.cfg.carrierPeriod).countP fun k => (t (k + 1)).arch.phase.get p) =
        s.arch.duty.get p

/-- R41: a duty of 0 gives a phase that is 0 after every CAR step, a duty of `CARRIER_PERIOD` one that is 1 after
every CAR step; the latter needs `DUTY_MAX = CARRIER_PERIOD`. -/
def Obligations.BoundaryDuties : Prop :=
  ∀ (s : State) (k : Nat) (p : Phase), s.Running → 0 < k → s.nextEvents k = List.replicate k .car →
    ∃ t, s.RunsTo k t ∧
      (s.arch.duty.get p = 0 → t.arch.phase.get p = false) ∧
      (s.arch.duty.get p = s.cfg.carrierPeriod →
        t.arch.phase.get p = true ∧ s.cfg.dutyMax = s.cfg.carrierPeriod)

/-- R42 (derived in the spec): counted from the CAR step that leaves `car_step = 0`, step `j` of the cycle leaves
`car_step = j`, and each phase is 1 for its first `d` steps and 0 for the rest. -/
def Obligations.LeadingEdgeAlignment : Prop :=
  ∀ (s : State) (j : Nat), s.Running → s.arch.carStep + 1 = s.cfg.carrierPeriod → j < s.cfg.carrierPeriod →
    s.nextEvents (j + 1) = List.replicate (j + 1) .car →
    ∃ t, s.RunsTo (j + 1) t ∧ t.arch.carStep = j ∧
      ∀ p, t.arch.phase.get p = decide (j < s.arch.duty.get p)

/-- R30: every CAR step before the next MOD, CARMOD or RST step compares with the triple the state holds. -/
def Obligations.TripleIsReadUntilNextWrite : Prop :=
  ∀ (s : State) (k : Nat), s.Running →
    (∀ i ∈ s.nextEvents k, i = .nop ∨ i = .car) → s.nextEvents (k + 1) = s.nextEvents k ++ [.car] →
    ∃ t, s.RunsTo (k + 1) t ∧ t.arch.duty = s.arch.duty ∧
      ∀ p, t.arch.phase.get p = decide (t.arch.carStep < s.arch.duty.get p)

/-! ### The modulation family -/

/-- R43: the three offsets are 0, `N/3` and `2N/3`, the division is exact, and each is below `N`. -/
def Obligations.OffsetsAreThirds : Prop :=
  ∀ c : WfCfg, off c .a = 0 ∧ off c .b = c.n / 3 ∧ off c .c = 2 * c.n / 3 ∧
    3 * off c .b = c.n ∧ 3 * off c .c = 2 * c.n ∧ ∀ p, off c p < c.n

/-- R44: the address is the sum modulo `N`, below `N`; and the corner cases. -/
def Obligations.AddressIsSumModuloN : Prop :=
  ∀ (c : WfCfg) (i o : Nat), i < c.n → o < c.n →
    addr c i o = (i + o) % c.n ∧ addr c i o < c.n ∧
    addr c i 0 = i ∧ (i + o = c.n → addr c i o = 0) ∧
    (i + 1 = c.n → addr c i (off c .b) = c.n / 3 - 1 ∧ addr c i (off c .c) = 2 * c.n / 3 - 1)

/-- R45: the triple of an index is the three table words at it and at the two offsets from it, modulo `N`. -/
def Obligations.DutyTripleIsThreeSamples : Prop :=
  ∀ (c : WfCfg) (i : Nat), i < c.n →
    ∃ t, gen c i = .ok t ∧ c.sineTable[i]? = some t.a ∧
      c.sineTable[(i + c.n / 3) % c.n]? = some t.b ∧
      c.sineTable[(i + 2 * c.n / 3) % c.n]? = some t.c ∧ ∀ p, t.get p ≤ c.dutyMax

/-- R46: the modulation counter goes up by one and wraps at `N`. -/
def Obligations.ModulationCounter : Prop :=
  ∀ (c : WfCfg) (i : Nat), i < c.n →
    (i + 1 = c.n → nextIdx c i = 0) ∧ (i + 1 ≠ c.n → nextIdx c i = i + 1) ∧
    nextIdx c i = (i + 1) % c.n ∧ nextIdx c i < c.n

/-- R47, R48: MOD. Before reset it faults; else the three duties are the table words sampled at the index before it
advances, the index advances modulo `N`, and nothing else changes. -/
def Obligations.ModTick : Prop :=
  ∀ s : State,
    (s.arch.live = false → exec .mod s = .fault (.tickBeforeReset .mod)) ∧
    (s.arch.live = true → s.arch.modIdx < s.cfg.n → ∃ d : Triple Nat,
      s.cfg.sineTable[s.arch.modIdx]? = some d.a ∧
      s.cfg.sineTable[(s.arch.modIdx + s.cfg.n / 3) % s.cfg.n]? = some d.b ∧
      s.cfg.sineTable[(s.arch.modIdx + 2 * s.cfg.n / 3) % s.cfg.n]? = some d.c ∧
      exec .mod s = .next { s with
        arch := { s.arch with duty := d, modIdx := (s.arch.modIdx + 1) % s.cfg.n } })

/-- R50: the leads of phases B and C: the triple written from an index has in B what the triple written from
the index `N/3` further on has in A, and in C what the one `2N/3` further on has in A. -/
def Obligations.PhaseLeads : Prop :=
  ∀ s u t v : State, s.Running → u.Running → u.cfg = s.cfg → exec .mod s = .next t → exec .mod u = .next v →
    (u.arch.modIdx = (s.arch.modIdx + s.cfg.n / 3) % s.cfg.n → t.arch.duty.b = v.arch.duty.a) ∧
    (u.arch.modIdx = (s.arch.modIdx + 2 * s.cfg.n / 3) % s.cfg.n → t.arch.duty.c = v.arch.duty.a)

/-- R48, R49, R62: in any interleaving without RST, the two counters count the ticks of their triggers modulo their
periods, and the triple is the one of the index before the last modulation tick. -/
def Obligations.CountersCountTicks : Prop :=
  ∀ (s : State) (k : Nat), s.Running → Instr.rst ∉ s.nextEvents k →
    ∃ t, s.RunsTo k t ∧ t.Running ∧ t.cfg = s.cfg ∧
      t.arch.modIdx = (s.arch.modIdx + (s.nextEvents k).countP ticksModulation) % s.cfg.n ∧
      t.arch.carStep = (s.arch.carStep + (s.nextEvents k).countP ticksCarrier) % s.cfg.carrierPeriod ∧
      ((s.nextEvents k).countP ticksModulation = 0 → t.arch.duty = s.arch.duty) ∧
      (0 < (s.nextEvents k).countP ticksModulation →
        gen s.cfg ((s.arch.modIdx + (s.nextEvents k).countP ticksModulation - 1) % s.cfg.n) =
          .ok t.arch.duty)

/-- R49 (derived in the spec): in any interleaving without RST, `N` modulation ticks further on the index is the
same again, and so is the triple, if at least one modulation tick came before. -/
def Obligations.EnvelopeIsPeriodic : Prop :=
  ∀ (s t u : State) (j k : Nat), s.Running → j ≤ k → Instr.rst ∉ s.nextEvents k →
    (s.nextEvents k).countP ticksModulation = (s.nextEvents j).countP ticksModulation + s.cfg.n →
    s.RunsTo j t → s.RunsTo k u →
      u.arch.modIdx = t.arch.modIdx ∧
        (0 < (s.nextEvents j).countP ticksModulation → u.arch.duty = t.arch.duty)

/-- R69, R14, R30: MOD leaves the phases as they were; the CAR after it compares with the new triple. -/
def Obligations.OutputLag : Prop :=
  ∀ s : State, s.Running →
    ∃ m t, exec .mod s = .next m ∧ m.arch.phase = s.arch.phase ∧ (∀ p, m.pin p = s.pin p) ∧
      exec .car m = .next t ∧
      ∀ p, t.arch.phase.get p = decide (t.arch.carStep < m.arch.duty.get p)

/-! ### The control family and reset -/

/-- R52: NOP leaves every state as it is, also before the first reset. -/
def Obligations.NopChangesNothing : Prop :=
  ∀ s : State, exec .nop s = .next s

/-- R53: CARMOD. Before reset it faults; else it is CAR then MOD, or MOD then CAR, an order `CARMOD_ORDER` admits,
performed as one step (the count of free values used is the model's own, log entry 6). -/
def Obligations.CarmodIsAnAdmittedSerialOrder : Prop :=
  ∀ s : State,
    (s.arch.live = false → exec .carmod s = .fault (.tickBeforeReset .carmod)) ∧
    (s.Running →
      ∃ i j, ((i = .car ∧ j = .mod ∧ s.cfg.carmodOrder ≠ .modFirst) ∨
          (i = .mod ∧ j = .car ∧ s.cfg.carmodOrder ≠ .carFirst)) ∧
        ∃ m t, exec i s = .next m ∧ exec j m = .next t ∧
          exec .carmod s = .next { t with draws := s.draws + 1 })

/-- R53, corner cases (derived in the spec): the two orders give the same counters and the same triple, and differ
in a phase only where its old and new duty lie on different sides of the new carrier step. -/
def Obligations.CarmodOrdersDifferOnlyInPhases : Prop :=
  ∀ s : State, s.Running →
    ∃ m t n u, exec .car s = .next m ∧ exec .mod m = .next t ∧ exec .mod s = .next n ∧ exec .car n = .next u ∧
      t.arch.modIdx = u.arch.modIdx ∧ t.arch.carStep = u.arch.carStep ∧ t.arch.duty = u.arch.duty ∧
      ∀ p, t.arch.phase.get p ≠ u.arch.phase.get p ↔
        ¬(t.arch.carStep < s.arch.duty.get p ↔ t.arch.carStep < t.arch.duty.get p)

/-- R54, R67 (the values other than `mod_idx` rest on the spec's decisions D5 and D6): RST completes in every state,
before and after reset, and leaves `live` and `mod_idx` at their reset values; the other elements are 0 under `ZERO`,
and under `ANY` within their ranges whatever the draws are (the model's free values, log entry 7). -/
def Obligations.ResetWritesEveryElement : Prop :=
  ∀ s : State, ∃ t, exec .rst s = .next t ∧ t.cfg = s.cfg ∧ t.input = s.input ∧
    t.arch.live = true ∧ t.arch.modIdx = 0 ∧
    (s.cfg.resetValues = .zero →
      t.arch.carStep = 0 ∧ t.arch.duty = { a := 0, b := 0, c := 0 } ∧
        t.arch.phase = { a := false, b := false, c := false }) ∧
    (s.cfg.resetValues = .any →
      t.arch.carStep < s.cfg.carrierPeriod ∧ ∀ p, t.arch.duty.get p ≤ s.cfg.dutyMax)

/-- R67 under the default `RESET_VALUES = ZERO` (values other than `mod_idx`: the spec's decisions D5, D6; log entry
8): the elements after reset, and that RST brings a machine at power-up with that configuration to them. That
`State.reset` is built with R4's reference configuration (the clauses about `State.reset.cfg`) is the model's choice
(log entry 4). -/
def Obligations.StateAfterReset : Prop :=
  State.reset.arch =
      { modIdx := 0
        carStep := 0
        duty := { a := 0, b := 0, c := 0 }
        phase := { a := false, b := false, c := false }
        live := true } ∧
    State.reset.cfg.n = 60 ∧ State.reset.cfg.carrierPeriod = 100 ∧ State.reset.cfg.dutyMax = 100 ∧
    State.reset.cfg.phaseOffsets = { a := 0, b := 20, c := 40 } ∧
    State.reset.cfg.carmodOrder = .any ∧ State.reset.cfg.resetValues = .zero ∧
    ∃ t, exec .rst (State.powerUp State.reset.cfg) = .next t ∧ t.arch = State.reset.arch

/-- R71 under `RESET_VALUES = ZERO` (the spec's decision D5): from reset until the first modulation tick every step
leaves the duties and the phases 0, and the first MOD writes the triple of index 0. -/
def Obligations.InitialTransient : Prop :=
  ∀ (s r : State) (k : Nat), s.cfg.resetValues = .zero → exec .rst s = .next r →
    (∀ i ∈ r.nextEvents k, ticksModulation i = false) →
    ∃ t, r.RunsTo k t ∧ t.arch.duty = { a := 0, b := 0, c := 0 } ∧
      t.arch.phase = { a := false, b := false, c := false } ∧
      ∃ d v, gen s.cfg 0 = .ok d ∧ exec .mod t = .next v ∧ v.arch.duty = d
end

