-- ==== Sys2Proof/Laws/Config.lean ====
section
/-! SUPPORT. What R5's checks say of a well-formed configuration, one lemma per check, and what decides whether
a configuration is well-formed. -/

namespace Sys2Proof.Machine

/-- A check's Boolean is its condition in R5's table. -/
theorem passes_iff (c : Cfg) (k : CfgCheck) : k.passes c = true ↔ checkCondition c k := by
  cases k with
  | tableRange =>
    simp only [CfgCheck.passes, checkCondition, List.all_eq_true, decide_eq_true_eq]
    constructor
    · intro h i v hi hv
      exact h v (List.mem_iff_getElem?.2 ⟨i, by rw [List.getElem?_take_of_lt hi]; exact hv⟩)
    · intro h v hv
      obtain ⟨i, hi⟩ := List.mem_iff_getElem?.1 hv
      rw [List.getElem?_take] at hi
      split at hi
      · exact h i v ‹_› hi
      · cases hi
  | _ => simp [CfgCheck.passes, checkCondition]

/-- R5's list of checks leaves none out. -/
theorem mem_inOrder (k : CfgCheck) : k ∈ CfgCheck.inOrder := by cases k <;> decide

/-- A configuration fails no check exactly when every condition of R5 holds. -/
theorem firstFailed_none_iff (c : Cfg) : c.firstFailed = none ↔ ∀ k, checkCondition c k := by
  simp only [Cfg.firstFailed, List.find?_eq_none, Bool.not_eq_true', Bool.not_eq_false, passes_iff]
  exact ⟨fun h k => h k (mem_inOrder k), fun h k _ => h k⟩

/-- The check a configuration is refused by is one it fails. -/
theorem firstFailed_some (c : Cfg) (k : CfgCheck) (h : c.firstFailed = some k) :
    ¬ checkCondition c k := by
  have := List.find?_some h
  rw [← passes_iff]
  simpa using this

theorem wf_condition (c : WfCfg) (k : CfgCheck) : checkCondition c.toCfg k :=
  (firstFailed_none_iff c.toCfg).1 c.wf k

theorem wf_n_pos (c : WfCfg) : 1 ≤ c.n := wf_condition c .nPos
theorem wf_n_div3 (c : WfCfg) : c.n % 3 = 0 := wf_condition c .nDiv3
theorem wf_period_pos (c : WfCfg) : 1 ≤ c.carrierPeriod := wf_condition c .periodPos
theorem wf_duty_le_period (c : WfCfg) : c.dutyMax ≤ c.carrierPeriod := wf_condition c .dutyLePeriod
theorem wf_table_range (c : WfCfg) (i v : Nat) (hi : i < c.n) (hv : c.sineTable[i]? = some v) :
    v ≤ c.dutyMax := wf_condition c .tableRange i v hi hv
/-- The offsets are exact thirds of `N` (R5, R7). -/
theorem wf_offsets_exact (c : WfCfg) :
    off c .a = 0 ∧ 3 * off c .b = c.n ∧ 3 * off c .c = 2 * c.n := wf_condition c .offsets
theorem wf_offsets (c : WfCfg) :
    off c .a = 0 ∧ off c .b = c.n / 3 ∧ off c .c = 2 * c.n / 3 := by
  obtain ⟨ha, hb, hc⟩ := wf_offsets_exact c
  omega

/-- With `WF_N_POS` and `WF_N_DIV3`, `N >= 3` (R5). -/
theorem wf_n_ge_three (c : WfCfg) : 3 ≤ c.n := by
  have := wf_n_pos c
  have := wf_n_div3 c
  omega

/-- Every offset is below `N` (R43). -/
theorem off_lt (c : WfCfg) (p : Phase) : off c p < c.n := by
  obtain ⟨ha, hb, hc⟩ := wf_offsets c
  have := wf_n_ge_three c
  cases p <;> omega

end Sys2Proof.Machine
end

