-- ==== Sys2Proof/Laws/State.lean ====
section
/-! SUPPORT. One lemma per field per named update of the state, and per field of what CAR, MOD and RST write. -/

namespace Sys2Proof.Machine

@[simp] theorem put_cfg (s : State) (r : Arch) : (s.put r).cfg = s.cfg := rfl
@[simp] theorem put_arch (s : State) (r : Arch) : (s.put r).arch = r := rfl
@[simp] theorem put_input (s : State) (r : Arch) : (s.put r).input = s.input := rfl
@[simp] theorem put_draws (s : State) (r : Arch) : (s.put r).draws = s.draws := rfl

@[simp] theorem useDraws_cfg (s : State) (k : Nat) : (s.useDraws k).cfg = s.cfg := rfl
@[simp] theorem useDraws_arch (s : State) (k : Nat) : (s.useDraws k).arch = s.arch := rfl
@[simp] theorem useDraws_input (s : State) (k : Nat) : (s.useDraws k).input = s.input := rfl
@[simp] theorem useDraws_draws (s : State) (k : Nat) : (s.useDraws k).draws = s.draws + k := rfl

@[simp] theorem present_cfg (s : State) (tr : List InPorts) : (s.present tr).cfg = s.cfg := rfl
@[simp] theorem present_arch (s : State) (tr : List InPorts) : (s.present tr).arch = s.arch := rfl
@[simp] theorem present_input (s : State) (tr : List InPorts) : (s.present tr).input = tr := rfl
@[simp] theorem present_draws (s : State) (tr : List InPorts) : (s.present tr).draws = s.draws := rfl

@[simp] theorem consume_cfg (s : State) : s.consume.cfg = s.cfg := rfl
@[simp] theorem consume_arch (s : State) : s.consume.arch = s.arch := rfl
@[simp] theorem consume_input (s : State) : s.consume.input = s.input.tail := rfl
@[simp] theorem consume_draws (s : State) : s.consume.draws = s.draws := rfl

/-- What an output port shows after the first reset, and before it (R17, R19). -/
theorem pin_of_live {s : State} (h : s.arch.live = true) (p : Phase) : s.pin p = s.arch.phase.get p := by
  simp [State.pin, h]
theorem pin_of_not_live {s : State} (h : s.arch.live = false) (p : Phase) :
    s.pin p = Config.undefinedPin s.draws p := by
  simp [State.pin, h]

@[simp] theorem carWrites_modIdx (c : WfCfg) (r : Arch) : (carWrites c r).modIdx = r.modIdx := rfl
@[simp] theorem carWrites_carStep (c : WfCfg) (r : Arch) :
    (carWrites c r).carStep = nextStep c r.carStep := rfl
@[simp] theorem carWrites_duty (c : WfCfg) (r : Arch) : (carWrites c r).duty = r.duty := rfl
@[simp] theorem carWrites_phase (c : WfCfg) (r : Arch) :
    (carWrites c r).phase = comparePhases (nextStep c r.carStep) r.duty := rfl
@[simp] theorem carWrites_live (c : WfCfg) (r : Arch) : (carWrites c r).live = r.live := rfl

@[simp] theorem modWrites_modIdx (c : WfCfg) (t : Triple Nat) (r : Arch) :
    (modWrites c t r).modIdx = nextIdx c r.modIdx := rfl
@[simp] theorem modWrites_carStep (c : WfCfg) (t : Triple Nat) (r : Arch) :
    (modWrites c t r).carStep = r.carStep := rfl
@[simp] theorem modWrites_duty (c : WfCfg) (t : Triple Nat) (r : Arch) :
    (modWrites c t r).duty = t := rfl
@[simp] theorem modWrites_phase (c : WfCfg) (t : Triple Nat) (r : Arch) :
    (modWrites c t r).phase = r.phase := rfl
@[simp] theorem modWrites_live (c : WfCfg) (t : Triple Nat) (r : Arch) :
    (modWrites c t r).live = r.live := rfl

@[simp] theorem serialWrites_modIdx (c : WfCfg) (t : Triple Nat) (r : Arch) (o : SerialOrder) :
    (serialWrites c t r o).modIdx = nextIdx c r.modIdx := by cases o <;> rfl
@[simp] theorem serialWrites_carStep (c : WfCfg) (t : Triple Nat) (r : Arch) (o : SerialOrder) :
    (serialWrites c t r o).carStep = nextStep c r.carStep := by cases o <;> rfl
@[simp] theorem serialWrites_duty (c : WfCfg) (t : Triple Nat) (r : Arch) (o : SerialOrder) :
    (serialWrites c t r o).duty = t := by cases o <;> rfl
@[simp] theorem serialWrites_live (c : WfCfg) (t : Triple Nat) (r : Arch) (o : SerialOrder) :
    (serialWrites c t r o).live = r.live := by cases o <;> rfl

@[simp] theorem rstWrites_live (c : WfCfg) (k : Nat) : (rstWrites c k).live = true := by
  unfold rstWrites; split <;> rfl
@[simp] theorem rstWrites_modIdx (c : WfCfg) (k : Nat) : (rstWrites c k).modIdx = 0 := by
  unfold rstWrites; split <;> rfl

@[simp] theorem comparePhases_get (x : Nat) (d : Triple Nat) (p : Phase) :
    (comparePhases x d).get p = phaseCmp x (d.get p) := by cases p <;> rfl

end Sys2Proof.Machine
end

