-- ==== Sys2Proof/Laws/Ops.lean ====
section
/-! SUPPORT. For each shared operation, once, what it answers; and for each instruction, once, the cases in
which it answers a next state. Proofs about `exec` and `step` cite these instead of unfolding. -/

namespace Sys2Proof.Machine

theorem requireLive_ok (op : Instr) (r : Arch) (h : r.live = true) : requireLive op r = .ok () := by
  simp [requireLive, h]

theorem requireLive_error (op : Instr) (r : Arch) (h : r.live = false) :
    requireLive op r = .error (.tickBeforeReset op) := by
  simp [requireLive, h]

/-- A ROM read below `N` answers the table's word, which is a duty value (R20, R21). -/
theorem memRead_ok (c : WfCfg) (a : Nat) (h : a < c.n) :
    ∃ v, c.sineTable[a]? = some v ∧ memRead c a = .ok v ∧ v ≤ c.dutyMax := by
  have hl : a < c.sineTable.length := by rw [wf_table_length]; exact h
  refine ⟨c.sineTable[a], List.getElem?_eq_getElem hl, by simp [memRead, h], ?_⟩
  exact wf_table_range c a _ h (List.getElem?_eq_getElem hl)

/-- The address generator stays below `N` (R44). -/
theorem addr_lt (c : WfCfg) {i o : Nat} (hi : i < c.n) (ho : o < c.n) : addr c i o < c.n := by
  unfold addr; split <;> omega

/-- For an index in range the three reads succeed, and give values in range (R45). -/
theorem gen_ok (c : WfCfg) (i : Nat) (h : i < c.n) :
    ∃ t, gen c i = .ok t ∧ (∀ p, c.sineTable[addr c i (off c p)]? = some (t.get p)) ∧
      t.a ≤ c.dutyMax ∧ t.b ≤ c.dutyMax ∧ t.c ≤ c.dutyMax := by
  obtain ⟨x, hx, hx', hxd⟩ := memRead_ok c _ (addr_lt c h (off_lt c .a))
  obtain ⟨y, hy, hy', hyd⟩ := memRead_ok c _ (addr_lt c h (off_lt c .b))
  obtain ⟨z, hz, hz', hzd⟩ := memRead_ok c _ (addr_lt c h (off_lt c .c))
  refine ⟨⟨x, y, z⟩, by simp [gen, hx', hy', hz', bind, Except.bind, pure, Except.pure], ?_, hxd, hyd, hzd⟩
  intro p; cases p <;> assumption

/-- What `sampleTriple` answers: the index was in range, and the triple is the one generated from it. -/
theorem sampleTriple_ok {c : WfCfg} {r : Arch} {t : Triple Nat} (h : sampleTriple c r = .ok t) :
    r.modIdx < c.n ∧ gen c r.modIdx = .ok t := by
  unfold sampleTriple readModIdx at h
  split at h
  · exact ⟨‹_›, h⟩
  · cases h

theorem sampleTriple_of_lt {c : WfCfg} {r : Arch} (h : r.modIdx < c.n) :
    sampleTriple c r = gen c r.modIdx := by
  simp [sampleTriple, readModIdx, h, bind, Except.bind]

/-- CAR's reads succeed exactly when the step and the three duties are in range. -/
theorem checkCarReads_ok_iff (c : WfCfg) (r : Arch) :
    checkCarReads c r = .ok () ↔ r.carStep < c.carrierPeriod ∧
      r.duty.a ≤ c.dutyMax ∧ r.duty.b ≤ c.dutyMax ∧ r.duty.c ≤ c.dutyMax := by
  unfold checkCarReads readCarStep readDuty
  by_cases h1 : r.carStep < c.carrierPeriod
  · by_cases h2 : c.dutyMax < r.duty.a
    · simp [h1, h2, bind, Except.bind]
    · by_cases h3 : c.dutyMax < r.duty.b
      · simp [h1, h2, h3, bind, Except.bind]
      · by_cases h4 : c.dutyMax < r.duty.c
        · simp [h1, h2, h3, h4, bind, Except.bind]
        · simp [h1, h2, h3, h4, bind, Except.bind, pure, Except.pure]
          omega
  · simp [h1, bind, Except.bind]

/-- The next state of an operation, where it answers one. -/
theorem finish_next_iff (s t : State) (x : Except Fault Arch) :
    s.finish x = .next t ↔ ∃ r, x = .ok r ∧ t = s.put r := by
  cases x with
  | error f => simp [State.finish]
  | ok r => simp [State.finish, eq_comm]

/-- CAR on a state it executes normally in. -/
theorem carOp_ok (c : WfCfg) (r : Arch) (hl : r.live = true) (hr : checkCarReads c r = .ok ()) :
    carOp c r = .ok (carWrites c r) := by
  simp [carOp, requireLive_ok _ _ hl, hr, bind, Except.bind, pure, Except.pure]

/-- Where CAR answers next elements: it was live, its reads were in range, and they are `carWrites`. -/
theorem carOp_inv {c : WfCfg} {r r' : Arch} (h : carOp c r = .ok r') :
    r.live = true ∧ checkCarReads c r = .ok () ∧ r' = carWrites c r := by
  unfold carOp at h
  cases hl : r.live with
  | false => simp [requireLive_error _ _ hl, bind, Except.bind] at h
  | true =>
    cases hr : checkCarReads c r with
    | error f => simp [requireLive_ok _ _ hl, hr, bind, Except.bind] at h
    | ok u =>
      simp [requireLive_ok _ _ hl, hr, bind, Except.bind, pure, Except.pure] at h
      exact ⟨rfl, rfl, h.symm⟩

/-- MOD on a state it executes normally in. -/
theorem modOp_ok (c : WfCfg) (r : Arch) (t : Triple Nat) (hl : r.live = true)
    (hr : sampleTriple c r = .ok t) : modOp c r = .ok (modWrites c t r) := by
  simp [modOp, requireLive_ok _ _ hl, hr, bind, Except.bind, pure, Except.pure]

/-- Where MOD answers next elements: it was live, and they are `modWrites` of the sampled triple. -/
theorem modOp_inv {c : WfCfg} {r r' : Arch} (h : modOp c r = .ok r') :
    r.live = true ∧ ∃ t, sampleTriple c r = .ok t ∧ r' = modWrites c t r := by
  unfold modOp at h
  cases hl : r.live with
  | false => simp [requireLive_error _ _ hl, bind, Except.bind] at h
  | true =>
    cases hr : sampleTriple c r with
    | error f => simp [requireLive_ok _ _ hl, hr, bind, Except.bind] at h
    | ok t =>
      simp [requireLive_ok _ _ hl, hr, bind, Except.bind, pure, Except.pure] at h
      exact ⟨rfl, t, rfl, h.symm⟩

/-- CARMOD on a state it executes normally in. -/
theorem carmodOp_ok (c : WfCfg) (o : SerialOrder) (r : Arch) (t : Triple Nat) (hl : r.live = true)
    (hr : checkCarReads c r = .ok ()) (ht : sampleTriple c r = .ok t) :
    carmodOp c o r = .ok (serialWrites c t r o) := by
  simp [carmodOp, requireLive_ok _ _ hl, hr, ht, bind, Except.bind, pure, Except.pure]

/-- Where CARMOD answers next elements: it was live, its reads were in range, and they are `serialWrites`. -/
theorem carmodOp_inv {c : WfCfg} {o : SerialOrder} {r r' : Arch} (h : carmodOp c o r = .ok r') :
    r.live = true ∧ checkCarReads c r = .ok () ∧
      ∃ t, sampleTriple c r = .ok t ∧ r' = serialWrites c t r o := by
  unfold carmodOp at h
  cases hl : r.live with
  | false => simp [requireLive_error _ _ hl, bind, Except.bind] at h
  | true =>
    cases hr : checkCarReads c r with
    | error f => simp [requireLive_ok _ _ hl, hr, bind, Except.bind] at h
    | ok u =>
      cases ht : sampleTriple c r with
      | error f => simp [requireLive_ok _ _ hl, hr, ht, bind, Except.bind] at h
      | ok t =>
        simp [requireLive_ok _ _ hl, hr, ht, bind, Except.bind, pure, Except.pure] at h
        exact ⟨rfl, rfl, t, rfl, h.symm⟩

/-- Everything a meaning can do when it answers a next state: one case per operation. -/
theorem exec_cases {i : Instr} {s t : State} (h : exec i s = .next t) :
    (i = .nop ∧ t = s) ∨
    (i = .car ∧ s.arch.live = true ∧ checkCarReads s.cfg s.arch = .ok () ∧
      t = s.put (carWrites s.cfg s.arch)) ∨
    (i = .mod ∧ s.arch.live = true ∧ ∃ d, sampleTriple s.cfg s.arch = .ok d ∧
      t = s.put (modWrites s.cfg d s.arch)) ∨
    (i = .carmod ∧ s.arch.live = true ∧ checkCarReads s.cfg s.arch = .ok () ∧
      ∃ d, sampleTriple s.cfg s.arch = .ok d ∧
        t = (s.useDraws 1).put (serialWrites s.cfg d s.arch (chosenOrder s.cfg s.draws))) ∨
    (i = .rst ∧ t = (s.useDraws 4).put (rstWrites s.cfg s.draws)) := by
  cases i with
  | nop => exact .inl ⟨rfl, by simpa [exec, execNop] using h.symm⟩
  | car =>
    obtain ⟨r, hr, rfl⟩ := (finish_next_iff _ _ _).1 (show s.finish (carOp s.cfg s.arch) = .next t from h)
    obtain ⟨hl, hc, rfl⟩ := carOp_inv hr
    exact .inr (.inl ⟨rfl, hl, hc, rfl⟩)
  | mod =>
    obtain ⟨r, hr, rfl⟩ := (finish_next_iff _ _ _).1 (show s.finish (modOp s.cfg s.arch) = .next t from h)
    obtain ⟨hl, d, hd, rfl⟩ := modOp_inv hr
    exact .inr (.inr (.inl ⟨rfl, hl, d, hd, rfl⟩))
  | carmod =>
    obtain ⟨r, hr, rfl⟩ := (finish_next_iff _ _ _).1
      (show (s.useDraws 1).finish (carmodOp s.cfg (chosenOrder s.cfg s.draws) s.arch) = .next t from h)
    obtain ⟨hl, hc, d, hd, rfl⟩ := carmodOp_inv hr
    exact .inr (.inr (.inr (.inl ⟨rfl, hl, hc, d, hd, rfl⟩)))
  | rst => exact .inr (.inr (.inr (.inr ⟨rfl, by simpa [exec, execRst] using h.symm⟩)))

end Sys2Proof.Machine
end

