-- ==== Sys2Proof/Laws/PerInstr.lean ====
section
/-! SUPPORT. What holds of every instruction as syntax, one lemma per constructor: its canonical word decodes to
it, and its row's mask and match (R32) pick out exactly the words that decode to it. -/

namespace Sys2Proof.Laws.Encoding

/-- R32 and R36 for one instruction. -/
def Statement (i : Instr) : Prop :=
  decode (encode i) = i ∧ ∀ e : EventWord, decode e = i ↔ e &&& i.mask = i.pattern

theorem nop : Statement .nop := ⟨rfl, by decide⟩

theorem car : Statement .car := ⟨rfl, by decide⟩

theorem mod : Statement .mod := ⟨rfl, by decide⟩

theorem carmod : Statement .carmod := ⟨rfl, by decide⟩

theorem rst : Statement .rst := ⟨rfl, by decide⟩

end Sys2Proof.Laws.Encoding
end

