-- ==== Sys2Proof/Laws/Step.lean ====
section
/-! SUPPORT. What a step and a run of steps do, said once: a step is the decoded operation on the consumed
input, no operation writes the configuration or the input, and what every step keeps every run keeps. -/

namespace Sys2Proof.Machine

/-- No operation writes the configuration or the input trace. -/
theorem exec_keeps {i : Instr} {s t : State} (h : exec i s = .next t) :
    t.cfg = s.cfg ∧ t.input = s.input := by
  obtain ⟨-, rfl⟩ | ⟨-, -, -, rfl⟩ | ⟨-, -, d, -, rfl⟩ | ⟨-, -, -, d, -, rfl⟩ | ⟨-, rfl⟩ := exec_cases h <;>
    simp

theorem step_of_cons {s : State} {p : InPorts} {rest : List InPorts} (h : s.input = p :: rest) :
    step s = exec (decode p.word) (s.present rest) := by
  unfold step State.sampled State.consume State.present
  rw [h]; rfl

theorem step_of_nil {s : State} (h : s.input = []) : step s = .next s := by
  have hd : decode InPorts.idle.word = .nop := by decide
  obtain ⟨c, r, i, k⟩ := s
  obtain rfl : i = [] := h
  simp only [step, State.sampled, hd, exec, execNop, State.consume, List.tail_nil]

theorem run_zero (s : State) : Sys2Proof.core.run 0 s = .next s := rfl

/-- A run of one more step, from the front. -/
theorem run_succ_of_next {k : Nat} {s t : State} (h : step s = .next t) :
    Sys2Proof.core.run (k + 1) s = Sys2Proof.core.run k t := by
  have h' : Sys2Proof.core.step s = .next t := h
  simp only [Host.Core.run, h']

/-- A run that answers a next state begins with a step that answers one. -/
theorem run_succ_inv {k : Nat} {s t : State} (h : Sys2Proof.core.run (k + 1) s = .next t) :
    ∃ u, step s = .next u ∧ Sys2Proof.core.run k u = .next t := by
  cases hs : step s with
  | next u => exact ⟨u, rfl, by rw [run_succ_of_next hs] at h; exact h⟩
  | fault f =>
    have h' : Sys2Proof.core.step s = .fault f := hs
    simp only [Host.Core.run, h'] at h
    cases h
  | refused r =>
    have h' : Sys2Proof.core.step s = .refused r := hs
    simp only [Host.Core.run, h'] at h
    cases h

/-- What every step keeps, every run keeps. -/
theorem run_keeps (Inv : State → Prop) (hstep : ∀ s t, Inv s → step s = .next t → Inv t) :
    ∀ (k : Nat) (s t : State), Inv s → s.RunsTo k t → Inv t := by
  intro k
  induction k with
  | zero => intro s t hs h; cases h; exact hs
  | succ k ih =>
    intro s t hs h
    obtain ⟨u, hu, ht⟩ := run_succ_inv h
    exact ih u t (hstep s u hs hu) ht

/-- The counter of R37 stays below `CARRIER_PERIOD`. -/
theorem nextStep_lt (c : WfCfg) {x : Nat} (h : x < c.carrierPeriod) : nextStep c x < c.carrierPeriod := by
  unfold nextStep; split <;> omega

/-- The counter of R46 stays below `N`. -/
theorem nextIdx_lt (c : WfCfg) {i : Nat} (h : i < c.n) : nextIdx c i < c.n := by
  unfold nextIdx; split <;> omega

/-- The index before the next one is the present one. -/
theorem prevIdx_nextIdx (c : WfCfg) (i : Nat) : prevIdx c (nextIdx c i) = i := by
  unfold prevIdx nextIdx
  split
  · simp only [if_true]; omega
  · simp

end Sys2Proof.Machine
end

