-- ==== Sys2Proof/Tests/Slice0.lean ====
section
/-! SUPPORT. Tests whose expected results come from spec/ (mostly 95_test_vectors.md), and for each statement with
hypotheses a witness that meets them. Each test is one step, or a handful on a three-entry table. -/

namespace Sys2Proof.Tests

open Sys2Proof Sys2Proof.Machine

/-! ### Helpers -/

/-- The reference configuration with FORMULA_TABLE and a given CARMOD order (95_test_vectors.md preamble). -/
def formulaCfg (o : CarmodOrder) : Cfg :=
  { referenceWith formulaTable with carmodOrder := o }

def formulaWf (o : CarmodOrder) (h : (formulaCfg o).firstFailed = none) : WfCfg :=
  { toCfg := formulaCfg o, wf := h }

/-- A configuration small enough for runs: `N = 3`, `CARRIER_PERIOD = 4`, `DUTY_MAX = 4`, table (2, 4, 0). -/
def tinyCfg (o : CarmodOrder) (r : ResetValues) : Cfg :=
  { n := 3
    carrierPeriod := 4
    dutyMax := 4
    phaseOffsets := { a := 0, b := 1, c := 2 }
    sineTable := [2, 4, 0]
    carmodOrder := o
    resetValues := r }

theorem tinyCfg_wf (o : CarmodOrder) (r : ResetValues) : (tinyCfg o r).firstFailed = none := by
  cases o <;> cases r <;> decide

def tiny (o : CarmodOrder) (r : ResetValues) : WfCfg :=
  { toCfg := tinyCfg o r, wf := tinyCfg_wf o r }

/-- A live state: index, step, duties, phases. -/
def live (c : WfCfg) (idx stp : Nat) (da db dc : Nat) (pa pb pc : Bool) : State :=
  { cfg := c
    arch :=
      { modIdx := idx
        carStep := stp
        duty := { a := da, b := db, c := dc }
        phase := { a := pa, b := pb, c := pc }
        live := true }
    input := []
    draws := 0 }

/-- The architectural state an outcome answers, if it answers one. -/
def archOf : Host.Outcome State Fault Refusal → Option Arch
  | .next s => some s.arch
  | .fault _ => none
  | .refused _ => none

/-- The fault an outcome answers, if it answers one. -/
def faultOf : Host.Outcome State Fault Refusal → Option Fault
  | .next _ => none
  | .fault f => some f
  | .refused _ => none

/-- Port levels for one operation. -/
def ports (i : Instr) : InPorts := InPorts.ofWord (encode i)

theorem formula_wf_any : (formulaCfg .any).firstFailed = none := by decide
theorem formula_wf_car : (formulaCfg .carFirst).firstFailed = none := by decide
theorem formula_wf_mod : (formulaCfg .modFirst).firstFailed = none := by decide

def refAny : WfCfg := formulaWf .any formula_wf_any
def refCar : WfCfg := formulaWf .carFirst formula_wf_car
def refMod : WfCfg := formulaWf .modFirst formula_wf_mod

/-! ### Decoding (95 §2.1) -/

theorem test_decode_carrier : decode 0b001#3 = .car := by decide
theorem test_decode_modulation : decode 0b010#3 = .mod := by decide
theorem test_decode_control :
    decode 0b000#3 = .nop ∧ decode 0b011#3 = .carmod ∧ decode 0b100#3 = .rst ∧ decode 0b101#3 = .rst ∧
      decode 0b110#3 = .rst ∧ decode 0b111#3 = .rst := by decide
/-- A byte with a bit above the event word's three is no event word. -/
theorem test_table_words : decodeTableWord 8 6 = some .rst ∧ decodeTableWord 8 3 = some .carmod ∧
    decodeTableWord 8 8 = none := by decide
/-- P1 of 95 §3: its text, its statements and its nine words. -/
theorem test_read_program :
    readProgram (['R', 'S', 'T', ' ', ';', '1', '0', '0', '\n', 'M', 'O', 'D', '\n', '\n'] ++
      ['C', 'A', 'R', ' ', '7', '\n']) = some [.one .rst, .one .mod, .times .car 7] := by decide
theorem test_assemble_program :
    assemble (formulaCfg .any) [.one .rst, .one .mod, .times .car 7] =
      [0b100#3, 0b010#3, 0b001#3, 0b001#3, 0b001#3, 0b001#3, 0b001#3, 0b001#3, 0b001#3] := by decide

/-! ### Well-formedness: each check refuses an ill-formed term (95 §2.2) -/

theorem test_wf_reference : (formulaCfg .any).firstFailed = none := formula_wf_any
theorem test_wf_three_entries :
    ({ formulaCfg .any with
        n := 3, phaseOffsets := { a := 0, b := 1, c := 2 }, sineTable := [50, 93, 7] }).firstFailed = none := by
  decide
theorem test_wf_nPos : ({ formulaCfg .any with n := 0 }).firstFailed = some .nPos := by decide
theorem test_wf_nDiv3 : ({ formulaCfg .any with n := 61 }).firstFailed = some .nDiv3 := by decide
/-- 95 §2.2: `N = 61` also fails `WF_OFFSETS` and `WF_TABLE_LEN`. -/
theorem test_wf_n61 : CfgCheck.passes { formulaCfg .any with n := 61 } .offsets = false ∧
    CfgCheck.passes { formulaCfg .any with n := 61 } .tableLen = false := by decide
theorem test_wf_offsets :
    ({ formulaCfg .any with phaseOffsets := { a := 0, b := 40, c := 20 } }).firstFailed = some .offsets := by
  decide
theorem test_wf_periodPos : ({ formulaCfg .any with carrierPeriod := 0 }).firstFailed = some .periodPos := by
  decide
theorem test_wf_tableLen :
    ({ formulaCfg .any with sineTable := formulaTable.take 59 }).firstFailed = some .tableLen := by decide
theorem test_wf_tableRange :
    ({ formulaCfg .any with sineTable := formulaTable.set 15 101 }).firstFailed = some .tableRange ∧
      ({ formulaCfg .any with dutyMax := 99 }).firstFailed = some .tableRange := by decide
theorem test_wf_dutyLePeriod :
    ({ formulaCfg .any with dutyMax := 101 }).firstFailed = some .dutyLePeriod := by decide
/-- R36: `k >= 1`, and no repeated form of RST. -/
theorem test_wf_statement : (Stmt.times .car 0).wellFormed = false ∧ (Stmt.times .rst 2).wellFormed = false ∧
    (Stmt.times .car 1).wellFormed = true := by decide

/-! ### The operations -/

/-- 40_carrier.md R39, worked example. -/
theorem test_car_worked_example : archOf (exec .car (live refAny 1 49 50 93 7 true true false)) =
    some (live refAny 1 50 50 93 7 false true false).arch := by decide
/-- 95 §2.3: the wrap, with duties 0, DUTY_MAX and 1. -/
theorem test_car_wraps : archOf (exec .car (live refAny 1 99 0 100 1 true false false)) =
    some (live refAny 1 0 0 100 1 false true true).arch := by decide
/-- 95 §2.4, row `i = 59`; step and phases unchanged. -/
theorem test_mod_wraps : archOf (exec .mod (live refAny 59 5 1 2 3 true false true)) =
    some (live refAny 0 5 45 96 10 true false true).arch := by decide
/-- W1: under a table that satisfies REF_FRAGMENT the first MOD gives (50, 99, 0). -/
theorem test_mod_ref_fragment :
    refFragment ((((formulaTable.set 1 53).set 2 56).set 20 99).set 40 0) = true ∧
      archOf (exec .mod (live
        { toCfg := referenceWith ((((formulaTable.set 1 53).set 2 56).set 20 99).set 40 0)
          wf := by decide } 0 0 0 0 0 false false false)) =
        some (live refAny 1 0 50 99 0 false false false).arch := by decide
/-- 42_control.md R53, worked example under CAR_FIRST. -/
theorem test_carmod_car_first : archOf (exec .carmod (live refCar 1 4 50 93 7 true true true)) =
    some (live refCar 2 5 55 90 4 true true true).arch := by decide
/-- 42_control.md R53, worked example under MOD_FIRST. -/
theorem test_carmod_mod_first : archOf (exec .carmod (live refMod 1 4 50 93 7 true true true)) =
    some (live refMod 2 5 55 90 4 true true false).arch := by decide
/-- 95 §2.5: RST with both ticks asserted, from a running state. -/
theorem test_rst_discards_ticks :
    archOf (step ((live refAny 1 50 50 93 7 false true false).withFetchWord 8 7)) =
      some (live refAny 0 0 0 0 0 false false false).arch := by decide
/-- 95 §2.5: RST at power-up. -/
theorem test_rst_at_power_up : archOf (exec .rst (State.powerUp refAny)) =
    some (live refAny 0 0 0 0 0 false false false).arch := by decide
/-- 95 §2.5: NOP at power-up is no fault and leaves the state. -/
theorem test_nop_at_power_up : exec .nop (State.powerUp refAny) = .next (State.powerUp refAny) := rfl
/-- P7, and the two other ticks: a tick before reset faults, by its own name. -/
theorem test_tick_before_reset : faultOf (exec .car (State.powerUp refAny)) = some (.tickBeforeReset .car) ∧
    faultOf (exec .mod (State.powerUp refAny)) = some (.tickBeforeReset .mod) ∧
    faultOf (exec .carmod (State.powerUp refAny)) = some (.tickBeforeReset .carmod) := by decide
/-- R6, R10: the reference widths and the 37 bits of visible state. -/
theorem test_widths : widthIdx (formulaCfg .any) = 6 ∧ widthStep (formulaCfg .any) = 7 ∧
    widthDuty (formulaCfg .any) = 7 ∧ visibleBits (formulaCfg .any) = 37 := by decide
/-- 95 §2.3, §2.4: sub-block vectors. -/
theorem test_sub_blocks :
    nextStep refAny 98 = 99 ∧ nextStep refAny 99 = 0 ∧ phaseCmp 49 50 = true ∧ phaseCmp 50 50 = false ∧
      addr refAny 59 20 = 19 ∧ addr refAny 59 40 = 39 ∧ addr refAny 40 20 = 0 ∧ addr refAny 39 20 = 59 ∧
      addr refAny 50 40 = 30 ∧ nextIdx refAny 58 = 59 ∧ nextIdx refAny 59 = 0 ∧
      (off refAny .a, off refAny .b, off refAny .c) = (0, 20, 40) := by decide

/-! ### Witnesses: the hypotheses of each statement are met, at the boundaries of their ranges -/

/-- A running state of the tiny machine, its step about to wrap, with duties 2, 4 (always on) and 0 (always off). -/
def atWrap (o : CarmodOrder) (r : ResetValues) (trace : List InPorts) : State :=
  (live (tiny o r) 2 3 2 4 0 true true false).present trace

theorem witness_StepRunsDecodedEvent :
    (State.reset.withFetchWord 8 1).input = { rst := false, modTick := false, carTick := true } :: [] := rfl
theorem witness_StepWithNothingPresentedIsIdle : State.reset.input = [] := rfl
theorem witness_ResetRequestDiscardsTicks :
    (State.reset.withFetchWord 8 7).input = { rst := true, modTick := true, carTick := true } :: [] := rfl
theorem witness_FetchedTableWordRuns : 0 < 8 ∧ decodeTableWord 8 0 = some .nop ∧
    7 < 8 ∧ decodeTableWord 8 7 = some .rst := by decide
theorem witness_ConstructionAcceptsExactlyWellFormed :
    (∀ k, checkCondition (tinyCfg .any .zero) k) ∧
      ¬ ∀ k, checkCondition { tinyCfg .any .zero with dutyMax := 5 } k := by
  refine ⟨(firstFailed_none_iff _).1 (tinyCfg_wf _ _), fun h => ?_⟩
  exact absurd (h .dutyLePeriod) (by simp [checkCondition, tinyCfg])
theorem witness_WidthsAreLeastAndFit : (64 ≤ 2 ^ 6 ∧ 65 ≤ 2 ^ 7) ∧ 59 < refAny.n ∧
    99 < refAny.carrierPeriod ∧ 100 ≤ refAny.dutyMax := by decide
theorem witness_MemReadReturnsTableWord : 0 < refAny.n ∧ 59 < refAny.n ∧ refAny.n ≤ 60 := by decide
theorem witness_StepKeepsRanges :
    (atWrap .any .zero [ports .car]).RangeInv ∧ ∃ t, step (atWrap .any .zero [ports .car]) = .next t :=
  ⟨fun _ => by decide, _, rfl⟩
theorem witness_EveryRunStaysInRange :
    ∃ s t, State.construct (tinyCfg .any .zero) = .next s ∧
      (s.present [ports .rst, ports .mod, ports .car]).RunsTo 3 t ∧ t.arch.live = true :=
  ⟨State.powerUp (tiny .any .zero), _, rfl, rfl, rfl⟩
theorem witness_OnlyTheNamedWritersWrite (i : Instr) :
    ∃ t, exec i (atWrap .any .zero []) = .next t := by
  cases i <;> exact ⟨_, rfl⟩
theorem witness_ModIdxLifecycle (i : Instr) : ∃ t, exec i (atWrap .any .zero []) = .next t :=
  witness_OnlyTheNamedWritersWrite i
theorem witness_ModIgnoresCarrierHalf : ∃ t, exec .mod (atWrap .any .zero []) = .next t := ⟨_, rfl⟩
theorem witness_OutputPortsShowPhases :
    (State.powerUp refAny).arch.live = false ∧ State.reset.arch.live = true := by decide
theorem witness_StepKeepsDutyLastSample :
    (tiny .any .zero).resetValues = .zero ∧
      (live (tiny .any .zero) 0 3 0 2 4 false false false).LastSample ∧
      ∃ t, step ((live (tiny .any .zero) 0 3 0 2 4 false false false).present [ports .carmod]) = .next t :=
  ⟨rfl, fun _ => .inr rfl, _, rfl⟩
theorem witness_StepNeverTearsTheTriple :
    (tiny .any .zero).resetValues = .zero ∧
      (live (tiny .any .zero) 0 3 0 2 4 false false true).Untorn ∧
      ∃ t, step ((live (tiny .any .zero) 0 3 0 2 4 false false true).present [ports .carmod]) = .next t :=
  ⟨rfl, fun _ => ⟨.inr ⟨2, by decide, rfl⟩, { a := 0, b := 2, c := 4 }, .inr ⟨2, by decide, rfl⟩, by decide⟩, _, rfl⟩
theorem witness_TickComparesOneWholeTriple :
    (∃ t, exec .car (atWrap .any .zero []) = .next t) ∧ ∃ t, exec .carmod (atWrap .any .any []) = .next t :=
  ⟨⟨_, rfl⟩, _, rfl⟩
theorem witness_TickBeforeResetFaults : (State.powerUp refAny).arch.live = false := rfl
/-- One state for each clause: just outside one range, inside those before it. -/
theorem witness_OutOfRangeElementFaults :
    faultOf (exec .car (live refAny 0 100 0 0 0 false false false)) = some (.stateOutOfRange .carStep) ∧
      faultOf (exec .car (live refAny 0 99 101 101 0 false false false)) = some (.stateOutOfRange .dutyA) ∧
      faultOf (exec .car (live refAny 0 99 100 101 101 false false false)) = some (.stateOutOfRange .dutyB) ∧
      faultOf (exec .carmod (live refAny 60 99 100 100 101 false false false)) =
        some (.stateOutOfRange .dutyC) ∧
      faultOf (exec .mod (live refAny 60 100 101 0 0 false false false)) = some (.stateOutOfRange .modIdx) ∧
      faultOf (exec .carmod (live refAny 60 99 100 100 100 false false false)) =
        some (.stateOutOfRange .modIdx) := by decide
theorem witness_RunningMachineNeverStops : (atWrap .any .any []).Running := by decide
theorem witness_BootOrderedRunsNeverStop :
    ((State.powerUp (tiny .any .any)).present [ports .nop, ports .rst, ports .car]).RangeInv ∧
      bootOrdered (eventsOf [ports .nop, ports .rst, ports .car]) = true ∧
      (atWrap .any .any []).RangeInv ∧ (atWrap .any .any []).arch.live = true :=
  ⟨fun h => absurd h (by decide), by decide, fun _ => by decide, rfl⟩
theorem witness_TickFirstRunsStop : (State.powerUp refAny).arch.live = false ∧
    bootOrdered (eventsOf [ports .nop, ports .mod]) = false := by decide
theorem witness_CarrierStepCounter : 99 < refAny.carrierPeriod ∧ 99 + 1 = refAny.carrierPeriod ∧
    98 + 1 ≠ refAny.carrierPeriod ∧
    ({ tinyCfg .any .zero with carrierPeriod := 1, dutyMax := 1, sineTable := [0, 1, 0] }).firstFailed = none := by
  decide
theorem witness_CounterArithmeticNeverOverflows : 99 < refAny.carrierPeriod ∧ 59 < refAny.n := by decide
theorem witness_ComparatorIsStrictUnsigned : 99 < 100 ∧ 100 ≤ 100 := by decide
theorem witness_CarTick : (State.powerUp refAny).arch.live = false ∧ (atWrap .any .zero []).arch.live = true ∧
    (atWrap .any .zero []).arch.carStep + 1 = (tiny .any .zero).carrierPeriod ∧
    (∀ p, (atWrap .any .zero []).arch.duty.get p ≤ (tiny .any .zero).dutyMax) :=
  ⟨rfl, rfl, rfl, fun p => by cases p <;> decide⟩
theorem witness_CarrierFidelity :
    (atWrap .any .zero (List.replicate 4 (ports .car))).Running ∧
      (atWrap .any .zero (List.replicate 4 (ports .car))).nextEvents 4 = List.replicate 4 .car := by decide
/-- Phase B's duty is `CARRIER_PERIOD` and phase C's is 0. -/
theorem witness_BoundaryDuties :
    (atWrap .any .zero (List.replicate 4 (ports .car))).Running ∧
      (atWrap .any .zero (List.replicate 4 (ports .car))).nextEvents 4 = List.replicate 4 .car ∧
      (atWrap .any .zero []).arch.duty.get .c = 0 ∧
      (atWrap .any .zero []).arch.duty.get .b = (tiny .any .zero).carrierPeriod := by decide
theorem witness_LeadingEdgeAlignment :
    (atWrap .any .zero (List.replicate 4 (ports .car))).Running ∧
      (atWrap .any .zero []).arch.carStep + 1 = (tiny .any .zero).carrierPeriod ∧
      3 < (tiny .any .zero).carrierPeriod ∧
      (atWrap .any .zero (List.replicate 4 (ports .car))).nextEvents 4 = List.replicate 4 .car := by decide
theorem witness_TripleIsReadUntilNextWrite :
    (atWrap .any .zero [ports .car, ports .nop, ports .car]).Running ∧
      (∀ i ∈ (atWrap .any .zero [ports .car, ports .nop, ports .car]).nextEvents 2, i = .nop ∨ i = .car) ∧
      (atWrap .any .zero [ports .car, ports .nop, ports .car]).nextEvents 3 =
        (atWrap .any .zero [ports .car, ports .nop, ports .car]).nextEvents 2 ++ [.car] := by decide
theorem witness_AddressIsSumModuloN : 59 < refAny.n ∧ 40 < refAny.n ∧ 40 + 20 = refAny.n ∧
    59 + 1 = refAny.n := by decide
theorem witness_DutyTripleIsThreeSamples : 59 < refAny.n := by decide
theorem witness_ModulationCounter : 59 < refAny.n ∧ 59 + 1 = refAny.n ∧ 58 + 1 ≠ refAny.n := by decide
theorem witness_ModTick : (State.powerUp refAny).arch.live = false ∧ (atWrap .any .zero []).arch.live = true ∧
    (atWrap .any .zero []).arch.modIdx + 1 = (tiny .any .zero).n := by decide
/-- From index 2: the index `N/3` further on is 0, the one `2N/3` further on is 1. -/
theorem witness_PhaseLeads :
    (atWrap .any .zero []).Running ∧ (live (tiny .any .zero) 0 0 0 0 0 false false false).Running ∧
      (live (tiny .any .zero) 1 0 0 0 0 false false false).Running ∧
      (∃ t, exec .mod (atWrap .any .zero []) = .next t) ∧
      (∃ t, exec .mod (live (tiny .any .zero) 0 0 0 0 0 false false false) = .next t) ∧
      (∃ t, exec .mod (live (tiny .any .zero) 1 0 0 0 0 false false false) = .next t) ∧
      0 = ((atWrap .any .zero []).arch.modIdx + (tiny .any .zero).n / 3) % (tiny .any .zero).n ∧
      1 = ((atWrap .any .zero []).arch.modIdx + 2 * (tiny .any .zero).n / 3) % (tiny .any .zero).n :=
  ⟨by decide, by decide, by decide, ⟨_, rfl⟩, ⟨_, rfl⟩, ⟨_, rfl⟩, by decide, by decide⟩
theorem witness_CountersCountTicks :
    (atWrap .any .zero [ports .carmod, ports .nop, ports .car]).Running ∧
      Instr.rst ∉ (atWrap .any .zero [ports .carmod, ports .nop, ports .car]).nextEvents 3 ∧
      0 < ((atWrap .any .zero [ports .carmod, ports .nop, ports .car]).nextEvents 3).countP ticksModulation ∧
      ((atWrap .any .zero [ports .carmod, ports .nop, ports .car]).nextEvents 0).countP ticksModulation = 0 := by
  decide
/-- One MOD, then three more with a CAR between: `N = 3`. -/
theorem witness_EnvelopeIsPeriodic :
    ∃ t u, (atWrap .any .zero [ports .mod, ports .mod, ports .car, ports .mod, ports .mod]).Running ∧
      Instr.rst ∉ (atWrap .any .zero [ports .mod, ports .mod, ports .car, ports .mod, ports .mod]).nextEvents 5 ∧
      ((atWrap .any .zero [ports .mod, ports .mod, ports .car, ports .mod, ports .mod]).nextEvents 5).countP
          ticksModulation =
        ((atWrap .any .zero [ports .mod, ports .mod, ports .car, ports .mod, ports .mod]).nextEvents 1).countP
          ticksModulation + (tiny .any .zero).n ∧
      (atWrap .any .zero [ports .mod, ports .mod, ports .car, ports .mod, ports .mod]).RunsTo 1 t ∧
      (atWrap .any .zero [ports .mod, ports .mod, ports .car, ports .mod, ports .mod]).RunsTo 5 u :=
  ⟨_, _, by decide, by decide, by decide, rfl, rfl⟩
theorem witness_OutputLag : (atWrap .any .zero []).Running := by decide
theorem witness_CarmodIsAnAdmittedSerialOrder : (State.powerUp refAny).arch.live = false ∧
    (atWrap .any .zero []).Running ∧ (atWrap .carFirst .zero []).Running ∧
    (atWrap .modFirst .zero []).Running := by decide
theorem witness_CarmodOrdersDifferOnlyInPhases : (atWrap .any .zero []).Running := by decide
theorem witness_ResetWritesEveryElement :
    (tiny .any .zero).resetValues = .zero ∧ (tiny .any .any).resetValues = .any := by decide
theorem witness_InitialTransient :
    (tiny .any .zero).resetValues = .zero ∧
      ∃ r, exec .rst (atWrap .any .zero [ports .car, ports .rst, ports .nop]) = .next r ∧
        ∀ i ∈ r.nextEvents 3, ticksModulation i = false :=
  ⟨rfl, _, rfl, by decide⟩

end Sys2Proof.Tests
end

section
/-! PROOFS, family `00_scope.md`: a step samples and runs its event (R9, R31), construction accepts exactly the
well-formed configurations (R5), and the derived widths are least and sufficient (R6). -/

namespace Sys2Proof.Machine

/-! ### The step -/

/-- Settles O5: the law of a step on a presented trace, `State.present` being the update of the input. -/
theorem stepRunsDecodedEvent : Obligations.StepRunsDecodedEvent := by
  intro s p rest h
  exact step_of_cons h

/-! ### Construction -/

/-- A configuration that fails no check is constructed, at power-up. -/
theorem construct_of_firstFailed_none {c : Cfg} (h : c.firstFailed = none) :
    State.construct c = .next (State.powerUp { toCfg := c, wf := h }) := by
  unfold State.construct
  split
  case h_1 k hk => exact absurd (hk.symm.trans h) (by simp)
  case h_2 => rfl

/-- A configuration that fails a check is refused by the first one it fails. -/
theorem construct_of_firstFailed_some {c : Cfg} {k : CfgCheck} (h : c.firstFailed = some k) :
    State.construct c = .refused (.configIllFormed k) := by
  unfold State.construct
  split
  case h_1 k' hk => rw [Option.some.inj (hk.symm.trans h)]
  case h_2 hn => exact absurd (hn.symm.trans h) (by simp)

/-- Settles O9, by whether `firstFailed` names a check: it names none exactly for a well-formed
configuration, and one that it names fails. -/
theorem constructionAcceptsExactlyWellFormed : Obligations.ConstructionAcceptsExactlyWellFormed := by
  intro c
  constructor
  · intro hall
    have hwf : c.firstFailed = none := (firstFailed_none_iff c).2 hall
    exact ⟨wf_n_ge_three ⟨c, hwf⟩, ⟨c, hwf⟩, rfl, construct_of_firstFailed_none hwf⟩
  · intro hnot
    have hfail : c.firstFailed ≠ none := fun hwf => hnot ((firstFailed_none_iff c).1 hwf)
    obtain ⟨k, hk⟩ := Option.ne_none_iff_exists'.1 hfail
    exact ⟨k, firstFailed_some c k hk, construct_of_firstFailed_some hk⟩

/-! ### Widths -/

/-- The search finds a sufficient width when one lies within its fuel. -/
theorem le_two_pow_clog2From {x : Nat} :
    ∀ (fuel w : Nat), x ≤ 2 ^ (w + fuel) → x ≤ 2 ^ clog2From x w fuel := by
  intro fuel
  induction fuel with
  | zero => intro w h; exact h
  | succ fuel ih =>
    intro w h
    unfold clog2From
    split
    case isTrue hw => exact hw
    case isFalse => exact ih (w + 1) (by rwa [Nat.add_right_comm])

/-- The search never passes a sufficient width. -/
theorem clog2From_le {x v : Nat} (hv : x ≤ 2 ^ v) :
    ∀ (fuel w : Nat), w ≤ v → clog2From x w fuel ≤ v := by
  intro fuel
  induction fuel with
  | zero => intro w h; exact h
  | succ fuel ih =>
    intro w h
    unfold clog2From
    split
    case isTrue => exact h
    case isFalse hw =>
      have hne : w ≠ v := by rintro rfl; exact hw hv
      exact ih (w + 1) (by omega)

/-- `x` tries suffice, since `x < 2 ^ x`. -/
theorem le_two_pow_clog2 (x : Nat) : x ≤ 2 ^ clog2 x :=
  le_two_pow_clog2From x 0 (by simpa using Nat.lt_two_pow_self.le)

theorem clog2_le {x w : Nat} (h : x ≤ 2 ^ w) : clog2 x ≤ w :=
  clog2From_le h x 0 (Nat.zero_le w)

/-- Raising a width to at least 1 (R6) keeps it sufficient. -/
theorem le_two_pow_max_one_clog2 (x : Nat) : x ≤ 2 ^ max 1 (clog2 x) :=
  (le_two_pow_clog2 x).trans (Nat.pow_le_pow_right Nat.two_pos (le_max_right 1 (clog2 x)))

/-- Settles O10: each range ends below the bound whose `clog2` its width is taken from. -/
theorem widthsAreLeastAndFit : Obligations.WidthsAreLeastAndFit := by
  refine ⟨fun x => ⟨le_two_pow_clog2 x, fun w => clog2_le⟩, fun c => ⟨?_, ?_, ?_⟩⟩
  · exact ⟨le_max_left _ _, fun i hi => hi.trans_le (le_two_pow_max_one_clog2 c.n)⟩
  · exact ⟨le_max_left _ _, fun x hx => hx.trans_le (le_two_pow_max_one_clog2 c.carrierPeriod)⟩
  · exact ⟨le_max_left _ _,
      fun d hd => (Nat.lt_succ_of_le hd).trans_le (le_two_pow_max_one_clog2 (c.dutyMax + 1))⟩

end Sys2Proof.Machine
end

section
/-! PROOFS, family `10_state.md`: what each operation does when it answers a next state, who writes what (R10, R11,
R17), the fault of a tick before reset (R19), and the range invariant of R15 along every run. -/

namespace Sys2Proof.Machine

/-! ### One operation at a time -/

theorem exec_nop_inv {s t : State} (h : exec .nop s = .next t) : t = s := by
  simpa using exec_cases h

theorem exec_car_inv {s t : State} (h : exec .car s = .next t) :
    s.arch.live = true ∧ checkCarReads s.cfg s.arch = .ok () ∧ t = s.put (carWrites s.cfg s.arch) := by
  simpa using exec_cases h

theorem exec_mod_inv {s t : State} (h : exec .mod s = .next t) :
    s.arch.live = true ∧ ∃ d, sampleTriple s.cfg s.arch = .ok d ∧ t = s.put (modWrites s.cfg d s.arch) := by
  simpa using exec_cases h

theorem exec_carmod_inv {s t : State} (h : exec .carmod s = .next t) :
    s.arch.live = true ∧ checkCarReads s.cfg s.arch = .ok () ∧
      ∃ d, sampleTriple s.cfg s.arch = .ok d ∧
        t = (s.useDraws 1).put (serialWrites s.cfg d s.arch (chosenOrder s.cfg s.draws)) := by
  simpa using exec_cases h

theorem exec_rst_inv {s t : State} (h : exec .rst s = .next t) :
    t = (s.useDraws 4).put (rstWrites s.cfg s.draws) := by
  simpa using exec_cases h

/-- CAR on a live state whose step and duties are in range (R39). -/
theorem exec_car_of_live {s : State} (hl : s.arch.live = true) (hc : checkCarReads s.cfg s.arch = .ok ()) :
    exec .car s = .next (s.put (carWrites s.cfg s.arch)) :=
  (finish_next_iff s _ _).2 ⟨_, carOp_ok s.cfg s.arch hl hc, rfl⟩

/-! ### Before reset -/

theorem finish_error (s : State) (f : Fault) : s.finish (.error f) = .fault f := rfl

theorem carOp_of_not_live (c : WfCfg) {r : Arch} (h : r.live = false) :
    carOp c r = .error (.tickBeforeReset .car) := by
  rw [carOp, requireLive_error _ _ h]; rfl

theorem modOp_of_not_live (c : WfCfg) {r : Arch} (h : r.live = false) :
    modOp c r = .error (.tickBeforeReset .mod) := by
  rw [modOp, requireLive_error _ _ h]; rfl

theorem carmodOp_of_not_live (c : WfCfg) (o : SerialOrder) {r : Arch} (h : r.live = false) :
    carmodOp c o r = .error (.tickBeforeReset .carmod) := by
  rw [carmodOp, requireLive_error _ _ h]; rfl

/-- Settles O23: the check of `live` comes first in each of the three ticks. -/
theorem tickBeforeResetFaults : Obligations.TickBeforeResetFaults := by
  rintro s i hl (rfl | rfl | rfl)
  · rw [exec, execCar, carOp_of_not_live _ hl, finish_error]
  · rw [exec, execMod, modOp_of_not_live _ hl, finish_error]
  · rw [exec, execCarmod, carmodOp_of_not_live _ _ hl, finish_error]

/-- Settles O19: a port depends on `live`, and before reset on nothing else of the elements. -/
theorem outputPortsShowPhases : Obligations.OutputPortsShowPhases := by
  intro s p
  refine ⟨fun hl => pin_of_live hl p, fun hl => ⟨pin_of_not_live hl p, fun r hr => ?_⟩⟩
  have hput : (s.put r).pin p = Config.undefinedPin s.draws p := pin_of_not_live hr p
  rw [hput, pin_of_not_live hl]

/-! ### Who writes what -/

/-- MOD leaves the output ports as they are, since it writes neither the phases nor `live` (R47). -/
theorem pin_put_modWrites (s : State) (d : Triple Nat) (p : Phase) :
    (s.put (modWrites s.cfg d s.arch)).pin p = s.pin p := rfl

/-- Settles O16, operation by operation, by what each one writes. -/
theorem onlyTheNamedWritersWrite : Obligations.OnlyTheNamedWritersWrite := by
  intro i s t h
  obtain ⟨hcfg, hinput⟩ := exec_keeps h
  have hrom : ∀ a, memRead t.cfg a = memRead s.cfg a := fun a => by rw [hcfg]
  refine ⟨?_, ?_, ?_, hcfg, hinput, hrom⟩ <;> intro hi
  · cases i with
    | nop => obtain rfl := exec_nop_inv h; exact ⟨rfl, rfl⟩
    | car => obtain ⟨-, -, rfl⟩ := exec_car_inv h; exact ⟨rfl, rfl⟩
    | mod | carmod | rst => simp at hi
  · cases i with
    | nop => obtain rfl := exec_nop_inv h; exact ⟨rfl, rfl, fun _ => rfl⟩
    | mod => obtain ⟨-, d, -, rfl⟩ := exec_mod_inv h; exact ⟨rfl, rfl, pin_put_modWrites s d⟩
    | car | carmod | rst => simp at hi
  · cases i with
    | nop => obtain rfl := exec_nop_inv h; rfl
    | car => obtain ⟨-, -, rfl⟩ := exec_car_inv h; rfl
    | mod => obtain ⟨-, d, -, rfl⟩ := exec_mod_inv h; rfl
    | carmod => obtain ⟨-, -, d, -, rfl⟩ := exec_carmod_inv h; simp
    | rst => exact absurd rfl hi

/-! ### The modulation index -/

/-- The counter of R46 is an increment modulo `N`. -/
theorem nextIdx_eq_mod (c : WfCfg) {i : Nat} (h : i < c.n) : nextIdx c i = (i + 1) % c.n := by
  unfold nextIdx
  split
  case isTrue hw => rw [hw, Nat.mod_self]
  case isFalse hw => rw [Nat.mod_eq_of_lt (by omega)]

/-- A modulation tick leaves `mod_idx` advanced, and completes only where it was in range (R47, R53). -/
theorem exec_modulation_modIdx {i : Instr} {s t : State} (hi : i = .mod ∨ i = .carmod)
    (h : exec i s = .next t) : s.arch.modIdx < s.cfg.n ∧ t.arch.modIdx = nextIdx s.cfg s.arch.modIdx := by
  obtain rfl | rfl := hi
  · obtain ⟨-, d, hd, rfl⟩ := exec_mod_inv h
    exact ⟨(sampleTriple_ok hd).1, rfl⟩
  · obtain ⟨-, -, d, hd, rfl⟩ := exec_carmod_inv h
    exact ⟨(sampleTriple_ok hd).1, by simp⟩

theorem exec_rst_modIdx {s t : State} (h : exec .rst s = .next t) : t.arch.modIdx = 0 := by
  rw [exec_rst_inv h, put_arch, rstWrites_modIdx]

/-- CAR does not read `mod_idx`, which passes through it (R11, R39). -/
theorem exec_car_put_modIdx {s t : State} (x : Nat) (h : exec .car s = .next t) :
    exec .car (s.put { s.arch with modIdx := x }) = .next (t.put { t.arch with modIdx := x }) := by
  obtain ⟨hl, hc, rfl⟩ := exec_car_inv h
  exact exec_car_of_live (s := s.put { s.arch with modIdx := x }) hl hc

/-- RST reads no element (R54). -/
theorem exec_rst_put (s : State) (r : Arch) : exec .rst (s.put r) = exec .rst s := rfl

/-- Settles O17: the clauses on what is written by the operation, those on what is read by replacing the index. -/
theorem modIdxLifecycle : Obligations.ModIdxLifecycle := by
  refine ⟨fun i s t h => ⟨?_, ?_, ?_, ?_⟩, fun s t x => ⟨exec_car_put_modIdx x, ?_⟩⟩
  · rintro rfl
    exact exec_rst_modIdx h
  · intro hi
    obtain ⟨hlt, hidx⟩ := exec_modulation_modIdx hi h
    rw [hidx, nextIdx_eq_mod s.cfg hlt]
  · rintro (rfl | hi)
    · rw [exec_rst_modIdx h]
      exact wf_n_pos s.cfg
    · obtain ⟨hlt, hidx⟩ := exec_modulation_modIdx hi h
      rw [hidx]
      exact nextIdx_lt s.cfg hlt
  · rintro (rfl | rfl)
    · rw [exec_nop_inv h]
    · obtain ⟨-, -, rfl⟩ := exec_car_inv h
      rfl
  · intro h
    rwa [exec_rst_put]

/-! ### The range invariant (R15) -/

/-- CAR advances the step within its range, and leaves the index and the duties as they are (R39). -/
theorem carWrites_inRange {c : WfCfg} {r : Arch} (h : r.InRange c) : (carWrites c r).InRange c := by
  obtain ⟨hidx, hstep, hduty⟩ := h
  exact ⟨hidx, nextStep_lt c hstep, hduty⟩

/-- A sampled triple consists of table words, which are duty values (R45). -/
theorem sampleTriple_le {c : WfCfg} {r : Arch} {d : Triple Nat} (h : sampleTriple c r = .ok d) :
    d.a ≤ c.dutyMax ∧ d.b ≤ c.dutyMax ∧ d.c ≤ c.dutyMax := by
  obtain ⟨hidx, hgen⟩ := sampleTriple_ok h
  obtain ⟨t, ht, -, hle⟩ := gen_ok c r.modIdx hidx
  obtain rfl : d = t := Except.ok.inj (hgen.symm.trans ht)
  exact hle

theorem modWrites_inRange {c : WfCfg} {r : Arch} {d : Triple Nat} (h : r.InRange c)
    (hd : sampleTriple c r = .ok d) : (modWrites c d r).InRange c := by
  obtain ⟨hidx, hstep, -⟩ := h
  exact ⟨nextIdx_lt c hidx, hstep, sampleTriple_le hd⟩

/-- In either order CARMOD performs CAR and MOD one after the other, and what MOD samples is not written by CAR
(R53). -/
theorem serialWrites_inRange {c : WfCfg} {r : Arch} {d : Triple Nat} (o : SerialOrder) (h : r.InRange c)
    (hd : sampleTriple c r = .ok d) : (serialWrites c d r o).InRange c := by
  have hd' : sampleTriple c (carWrites c r) = .ok d := hd
  cases o with
  | carFirst => exact modWrites_inRange (carWrites_inRange h) hd'
  | modFirst => exact carWrites_inRange (modWrites_inRange h hd)

theorem drawUpTo_le (top k : Nat) : drawUpTo top k ≤ top :=
  Nat.le_of_lt_succ (Nat.mod_lt _ top.succ_pos)

theorem zeroLive_inRange (c : WfCfg) : Arch.zeroLive.InRange c :=
  ⟨wf_n_pos c, wf_period_pos c, Nat.zero_le _, Nat.zero_le _, Nat.zero_le _⟩

theorem drawnLive_inRange (c : WfCfg) (k : Nat) : (Arch.drawnLive c k).InRange c := by
  have hstep : drawUpTo (c.carrierPeriod - 1) k < c.carrierPeriod :=
    Nat.lt_of_le_pred (wf_period_pos c) (drawUpTo_le _ _)
  exact ⟨wf_n_pos c, hstep, drawUpTo_le _ _, drawUpTo_le _ _, drawUpTo_le _ _⟩

/-- Reset leaves every element within its range, under both values of RESET_VALUES (R67). -/
theorem rstWrites_inRange (c : WfCfg) (k : Nat) : (rstWrites c k).InRange c := by
  unfold rstWrites
  split
  · exact zeroLive_inRange c
  · exact drawnLive_inRange c k

/-- Every operation keeps the range invariant: a tick completes only with `live = 1`, where the invariant says
that what it updates is in range. -/
theorem exec_keeps_rangeInv {i : Instr} {s t : State} (hs : s.RangeInv) (h : exec i s = .next t) :
    t.RangeInv := by
  intro hlive
  cases i with
  | nop =>
    obtain rfl := exec_nop_inv h
    exact hs hlive
  | car =>
    obtain ⟨hl, -, rfl⟩ := exec_car_inv h
    exact carWrites_inRange (hs hl)
  | mod =>
    obtain ⟨hl, d, hd, rfl⟩ := exec_mod_inv h
    exact modWrites_inRange (hs hl) hd
  | carmod =>
    obtain ⟨hl, -, d, hd, rfl⟩ := exec_carmod_inv h
    exact serialWrites_inRange _ (hs hl) hd
  | rst =>
    obtain rfl := exec_rst_inv h
    exact rstWrites_inRange _ _

/-- Settles O13: a step is an operation on the consumed input, which holds the same elements. -/
theorem stepKeepsRanges : Obligations.StepKeepsRanges := by
  intro s t hs h
  have hconsume : s.consume.RangeInv := hs
  exact exec_keeps_rangeInv hconsume h

theorem step_keeps_cfg {s t : State} (h : step s = .next t) : t.cfg = s.cfg :=
  (exec_keeps h).1

/-- Construction gives a machine at power-up with the configuration it was given (R5, R68). -/
theorem construct_next_inv {c : Cfg} {s : State} (h : State.construct c = .next s) :
    ∃ w : WfCfg, w.toCfg = c ∧ s = State.powerUp w := by
  cases hf : c.firstFailed with
  | some k => rw [construct_of_firstFailed_some hf] at h; cases h
  | none =>
    rw [construct_of_firstFailed_none hf] at h
    cases h
    exact ⟨⟨c, hf⟩, rfl, rfl⟩

/-- The range invariant of a machine over one configuration, which no step replaces (log entry 1). -/
def InRangeOver (c : WfCfg) (s : State) : Prop :=
  s.cfg = c ∧ s.RangeInv

theorem step_keeps_inRangeOver (c : WfCfg) (s t : State) (hs : InRangeOver c s) (h : step s = .next t) :
    InRangeOver c t := by
  obtain ⟨hcfg, hrange⟩ := hs
  exact ⟨(step_keeps_cfg h).trans hcfg, stepKeepsRanges s t hrange h⟩

/-- At power-up the invariant holds whatever is presented: no element holds a value yet (R19). -/
theorem powerUp_inRangeOver (c : WfCfg) (trace : List InPorts) :
    InRangeOver c ((State.powerUp c).present trace) :=
  ⟨rfl, fun hl => absurd hl Bool.false_ne_true⟩

/-- Settles O14: the invariant holds at power-up and every step keeps it. -/
theorem everyRunStaysInRange : Obligations.EveryRunStaysInRange := by
  intro c s t trace k hc hrun hl
  obtain ⟨w, rfl, rfl⟩ := construct_next_inv hc
  obtain ⟨rfl, hrange⟩ := run_keeps (InRangeOver w) (step_keeps_inRangeOver w) k _ t
    (powerUp_inRangeOver w trace) hrun
  obtain ⟨hidx, hstep, hda, hdb, hdc⟩ := hrange hl
  exact ⟨hidx, hstep, fun p => by cases p <;> assumption⟩

end Sys2Proof.Machine
end

section
/-! PROOFS, family `20_memory.md`: the sine table ROM (R20, R21, R22), and the duty triple as one object: every write
replaces it whole and every comparison reads it whole (R28), until the next write (R30). -/

namespace Sys2Proof.Machine

/-! ### The sine table ROM -/

/-- A read from `N` on faults with its address (R21). -/
theorem memRead_error (c : WfCfg) {a : Nat} (h : c.n ≤ a) : memRead c a = .error (.romAddressOutOfRange a) :=
  dif_neg h.not_gt

/-- Settles O11: the ROM on either side of `N`, and the bound of the address generator. -/
theorem memReadReturnsTableWord : Obligations.MemReadReturnsTableWord := by
  intro c a
  exact ⟨memRead_ok c a, memRead_error c, fun i o => addr_lt c⟩

theorem formulaTable_sum : formulaTable.sum = 3000 := by decide

theorem referenceWith_formulaTable_firstFailed : (referenceWith formulaTable).firstFailed = none := by decide

/-- The mean of FORMULA_TABLE is half of DUTY_MAX: 3000 / 60 = 100 / 2 (R51). -/
theorem formulaTable_symmetric : TableSymmetric (referenceWith formulaTable) 0 := by
  have hsum : ((referenceWith formulaTable).sineTable.sum : ℚ) = 3000 := by
    exact_mod_cast formulaTable_sum
  have hn : ((referenceWith formulaTable).n : ℚ) = 60 := rfl
  have hmax : ((referenceWith formulaTable).dutyMax : ℚ) = 100 := rfl
  unfold TableSymmetric
  rw [hsum, hn, hmax]
  norm_num

/-- Settles O12: FORMULA_TABLE fails no check of R5, and differs from the fragment, first in entry 1. -/
theorem formulaTableFacts : Obligations.FormulaTableFacts := by
  refine ⟨?_, formulaTable_sum, formulaTable_symmetric, by decide⟩
  exact (firstFailed_none_iff _).1 referenceWith_formulaTable_firstFailed

/-! ### The last sample -/

/-- Under `RESET_VALUES = ZERO` the elements after reset are all 0 (R67). -/
theorem rstWrites_of_zero {c : WfCfg} (hz : c.resetValues = .zero) (k : Nat) : rstWrites c k = Arch.zeroLive := by
  rw [rstWrites, hz]

/-- A state whose triple is the one generated from the index before its own has it as its last sample. -/
theorem lastSample_of_sampled {s : State} {i : Nat} (hgen : gen s.cfg i = .ok s.arch.duty)
    (hidx : s.arch.modIdx = nextIdx s.cfg i) : s.LastSample := by
  intro _
  right
  rw [hidx, prevIdx_nextIdx]
  exact hgen

/-- A modulation tick writes the triple of the index together with the advanced index; CAR and NOP write neither. -/
theorem exec_keeps_lastSample {i : Instr} {s t : State} (hz : s.cfg.resetValues = .zero) (hs : s.LastSample)
    (h : exec i s = .next t) : t.LastSample := by
  cases i with
  | nop =>
    obtain rfl := exec_nop_inv h
    exact hs
  | car =>
    obtain ⟨-, -, rfl⟩ := exec_car_inv h
    exact hs
  | mod =>
    obtain ⟨-, d, hd, rfl⟩ := exec_mod_inv h
    exact lastSample_of_sampled (sampleTriple_ok hd).2 rfl
  | carmod =>
    obtain ⟨-, -, d, hd, rfl⟩ := exec_carmod_inv h
    exact lastSample_of_sampled (i := s.arch.modIdx) (by simpa using (sampleTriple_ok hd).2) (by simp)
  | rst =>
    obtain rfl := exec_rst_inv h
    rw [rstWrites_of_zero hz]
    exact fun _ => .inl ⟨rfl, rfl⟩

/-- Settles O20: a step is an operation on the consumed input, which holds the same triple and index. -/
theorem stepKeepsDutyLastSample : Obligations.StepKeepsDutyLastSample := by
  intro s t hz hs h
  exact exec_keeps_lastSample (s := s.consume) hz hs h

/-! ### Whole triples in the comparison -/

/-- A carrier tick compares the step it leaves with one whole triple: the held one, or one CARMOD sampled (R28). -/
theorem exec_carrier_phase {i : Instr} {s t : State} (hi : i = .car ∨ i = .carmod) (h : exec i s = .next t) :
    ∃ d : Triple Nat,
      (d = s.arch.duty ∨ (i = .carmod ∧ gen s.cfg s.arch.modIdx = .ok d ∧ t.arch.duty = d)) ∧
        t.arch.phase = comparePhases t.arch.carStep d := by
  obtain rfl | rfl := hi
  · obtain ⟨-, -, rfl⟩ := exec_car_inv h
    exact ⟨s.arch.duty, .inl rfl, rfl⟩
  · obtain ⟨-, -, d, hd, rfl⟩ := exec_carmod_inv h
    cases chosenOrder s.cfg s.draws with
    | carFirst => exact ⟨s.arch.duty, .inl rfl, rfl⟩
    | modFirst => exact ⟨d, .inr ⟨rfl, (sampleTriple_ok hd).2, rfl⟩, rfl⟩

theorem comparePhases_get_decide (x : Nat) (d : Triple Nat) (p : Phase) :
    (comparePhases x d).get p = decide (x < d.get p) :=
  comparePhases_get x d p

/-- Settles O22: the comparison of `exec_carrier_phase`, read off phase by phase. -/
theorem tickComparesOneWholeTriple : Obligations.TickComparesOneWholeTriple := by
  intro i s t hi h
  obtain ⟨d, hd, hphase⟩ := exec_carrier_phase hi h
  exact ⟨d, hd, fun p => by rw [hphase, comparePhases_get_decide]⟩

/-! ### Generations -/

/-- A sampled triple is of one generation: that of the index it was sampled at. -/
theorem sampleTriple_oneGeneration {c : WfCfg} {r : Arch} {d : Triple Nat} (h : sampleTriple c r = .ok d) :
    OneGeneration c d :=
  .inr ⟨r.modIdx, sampleTriple_ok h⟩

/-- Every operation keeps the triple and the phases of one generation each: MOD replaces the whole triple, CAR compares
with the whole triple held, and CARMOD does both, with a whole triple in either order. -/
theorem exec_keeps_untorn {i : Instr} {s t : State} (hz : s.cfg.resetValues = .zero) (hs : s.Untorn)
    (h : exec i s = .next t) : t.Untorn := by
  intro hlive
  cases i with
  | nop =>
    obtain rfl := exec_nop_inv h
    exact hs hlive
  | car =>
    obtain ⟨hl, -, rfl⟩ := exec_car_inv h
    obtain ⟨hduty, -⟩ := hs hl
    exact ⟨hduty, s.arch.duty, hduty, rfl⟩
  | mod =>
    obtain ⟨hl, d, hd, rfl⟩ := exec_mod_inv h
    obtain ⟨-, hphase⟩ := hs hl
    exact ⟨sampleTriple_oneGeneration hd, hphase⟩
  | carmod =>
    obtain ⟨hl, -, d, hd, rfl⟩ := exec_carmod_inv h
    obtain ⟨hduty, -⟩ := hs hl
    have hnew : OneGeneration s.cfg d := sampleTriple_oneGeneration hd
    cases chosenOrder s.cfg s.draws with
    | carFirst => exact ⟨hnew, s.arch.duty, hduty, rfl⟩
    | modFirst => exact ⟨hnew, d, hnew, rfl⟩
  | rst =>
    obtain rfl := exec_rst_inv h
    rw [rstWrites_of_zero hz]
    exact ⟨.inl rfl, Triple.same 0, .inl rfl, rfl⟩

/-- Settles O21: a step is an operation on the consumed input, which holds the same elements. -/
theorem stepNeverTearsTheTriple : Obligations.StepNeverTearsTheTriple := by
  intro s t hz hs h
  exact exec_keeps_untorn (s := s.consume) hz hs h

/-! ### Until the next write -/

@[simp] theorem nextEvents_zero (s : State) : s.nextEvents 0 = [] := rfl

theorem nextEvents_succ_of_cons {s : State} {p : InPorts} {rest : List InPorts} (h : s.input = p :: rest) (k : Nat) :
    s.nextEvents (k + 1) = decode p.word :: (s.present rest).nextEvents k := by
  simp [State.nextEvents, eventsOf, h]

/-- Where an event is still to come, ports are presented for the next step. -/
theorem exists_input_eq_cons_of_nextEvents {s : State} {k : Nat} {l : List Instr} {i : Instr}
    (h : s.nextEvents k = l ++ [i]) : ∃ e rest, s.input = e :: rest := by
  refine List.exists_cons_of_ne_nil fun hnil => ?_
  simp [State.nextEvents, eventsOf, hnil] at h

/-- The events still to come depend on the input alone. -/
theorem nextEvents_congr {s t : State} (h : t.input = s.input) (k : Nat) : t.nextEvents k = s.nextEvents k := by
  simp [State.nextEvents, h]

/-- In a running state NOP and CAR complete, stay running, and leave the duties as they are (R30, R39, R52). -/
theorem exec_reader_of_running {i : Instr} {s : State} (hi : i = .nop ∨ i = .car) (hs : s.Running) :
    ∃ u, exec i s = .next u ∧ u.Running ∧ u.arch.duty = s.arch.duty := by
  obtain ⟨hl, hrange⟩ := hs
  obtain rfl | rfl := hi
  · exact ⟨s, rfl, ⟨hl, hrange⟩, rfl⟩
  · have ⟨_, hreads⟩ := hrange
    have hexec := exec_car_of_live hl ((checkCarReads_ok_iff s.cfg s.arch).2 hreads)
    exact ⟨_, hexec, ⟨hl, carWrites_inRange hrange⟩, rfl⟩

/-- A running CAR compares the step it leaves with the duties, and keeps them (R39). -/
theorem exec_car_of_running {s : State} (hs : s.Running) :
    ∃ u, exec .car s = .next u ∧ u.arch.duty = s.arch.duty ∧
      ∀ p, u.arch.phase.get p = decide (u.arch.carStep < s.arch.duty.get p) := by
  obtain ⟨u, hu, -, hduty⟩ := exec_reader_of_running (.inr rfl) hs
  obtain ⟨-, -, rfl⟩ := exec_car_inv hu
  exact ⟨_, hu, hduty, comparePhases_get_decide _ _⟩

/-- Settles O36, by induction on the number of events before the last CAR: each of them leaves a running state with
the same duties and one event less to come. -/
theorem tripleIsReadUntilNextWrite : Obligations.TripleIsReadUntilNextWrite := by
  intro s k hrun hreaders hlast
  induction k generalizing s with
  | zero =>
    obtain ⟨e, rest, hin⟩ := exists_input_eq_cons_of_nextEvents hlast
    have hcar : decode e.word = .car := by simpa [nextEvents_succ_of_cons hin] using hlast
    obtain ⟨t, ht, hduty, hphase⟩ := exec_car_of_running (s := s.present rest) hrun
    have hstep : step s = .next t := by rw [step_of_cons hin, hcar, ht]
    exact ⟨t, run_succ_of_next hstep, hduty, hphase⟩
  | succ k ih =>
    obtain ⟨e, rest, hin⟩ := exists_input_eq_cons_of_nextEvents hlast
    simp only [nextEvents_succ_of_cons hin, List.forall_mem_cons] at hreaders
    obtain ⟨hhead, htail⟩ := hreaders
    obtain ⟨u, hu, hurun, huduty⟩ := exec_reader_of_running (s := s.present rest) hhead hrun
    have hevents := nextEvents_congr (exec_keeps hu).2
    have hulast : u.nextEvents (k + 1) = u.nextEvents k ++ [.car] := by
      simpa [nextEvents_succ_of_cons hin, hevents] using hlast
    obtain ⟨t, ht, hduty, hphase⟩ := ih u hurun (by rwa [hevents]) hulast
    rw [huduty] at hduty hphase
    have hstep : step s = .next u := by rw [step_of_cons hin, hu]
    exact ⟨t, (run_succ_of_next hstep).trans ht, hduty, hphase⟩

end Sys2Proof.Machine
end

section
/-! PROOFS, family `30_encoding.md`: port levels and event words (R31), the opcode table by value and by mask and match
(R32), what statements assemble to and decode back to (R36), and a table word on the ports (log entry 10). -/

namespace Sys2Proof.Machine

/-! ### Ports and words -/

@[simp] theorem ofWord_word (p : InPorts) : InPorts.ofWord p.word = p := by
  obtain ⟨r, m, k⟩ := p
  cases r <;> cases m <;> cases k <;> rfl

@[simp] theorem word_ofWord : ∀ e : EventWord, (InPorts.ofWord e).word = e := by decide

/-- Settles O1: the two readings of R31 are inverse, and `ofWord` reads each port off its own bit. -/
theorem portsFormEventWord : Obligations.PortsFormEventWord := by
  refine ⟨fun p => ?_, ofWord_word, word_ofWord⟩
  have h := ofWord_word p
  exact ⟨congrArg InPorts.rst h, congrArg InPorts.modTick h, congrArg InPorts.carTick h⟩

/-! ### The opcode table -/

/-- R32 and R36 for every instruction. -/
theorem encoding_statement (i : Instr) : Laws.Encoding.Statement i := by
  cases i with
  | nop => exact Laws.Encoding.nop
  | car => exact Laws.Encoding.car
  | mod => exact Laws.Encoding.mod
  | carmod => exact Laws.Encoding.carmod
  | rst => exact Laws.Encoding.rst

@[simp] theorem decode_encode (i : Instr) : decode (encode i) = i :=
  (encoding_statement i).1

theorem decode_eq_iff_mask (i : Instr) (e : EventWord) : decode e = i ↔ e &&& i.mask = i.pattern :=
  (encoding_statement i).2 e

/-- Settles O2: the rows by evaluation, the masks and matches by `decode_eq_iff_mask`. -/
theorem eventWordsDecodeAsTabled : Obligations.EventWordsDecodeAsTabled :=
  ⟨rfl, rfl, rfl, rfl, rfl, rfl, rfl, rfl, decode_eq_iff_mask, rfl, rfl, rfl, rfl, rfl⟩

/-! ### Assembled programs -/

/-- Disassembly undoes the canonical encoding of a list of operations. -/
@[simp] theorem disassemble_map_encode (ops : List Instr) : disassemble (ops.map encode) = ops := by
  have hid : decode ∘ encode = id := funext decode_encode
  rw [disassemble, List.map_map, hid, List.map_id]

/-- The ports present each word as it is (R31), so decoding what they show is disassembling the words. -/
theorem eventsOf_traceOf (words : List EventWord) : eventsOf (traceOf words) = disassemble words := by
  simp [eventsOf, traceOf, disassemble]

/-- Settles O3: the words are the encoded events, which both readings decode one by one. -/
theorem assembledProgramDecodesToItsEvents : Obligations.AssembledProgramDecodesToItsEvents := by
  intro c program
  have hdis : disassemble (assemble c program) = program.flatMap (Stmt.events c) := disassemble_map_encode _
  exact ⟨hdis, (eventsOf_traceOf _).trans hdis⟩

theorem assemble_singleton (c : Cfg) (st : Stmt) : assemble c [st] = (st.events c).map encode := by
  simp [assemble]

/-- A statement that repeats one operation assembles to that many copies of its word. -/
theorem assemble_of_events_replicate {c : Cfg} {st : Stmt} {k : Nat} {i : Instr}
    (h : st.events c = List.replicate k i) : assemble c [st] = List.replicate k (encode i) := by
  rw [assemble_singleton, h, List.map_replicate]

/-- Settles O4: each repeated form, CYCLE and ENVELOPE stands for copies of one operation. -/
theorem statementsExpandAsTabled : Obligations.StatementsExpandAsTabled := by
  intro c k
  have htimes (i : Instr) : assemble c [.times i k] = List.replicate k (encode i) :=
    assemble_of_events_replicate rfl
  exact ⟨rfl, htimes .nop, htimes .car, htimes .mod, htimes .carmod,
    assemble_of_events_replicate (i := .car) rfl, assemble_of_events_replicate (i := .mod) rfl⟩

/-! ### A table word on the ports -/

/-- What the table decoder answers is the operation of the word's low bits. -/
theorem decode_of_decodeTableWord {nbits w : Nat} {i : Instr} (h : decodeTableWord nbits w = some i) :
    decode (BitVec.ofNat 3 (w % 2 ^ nbits)) = i := by
  obtain ⟨e, he, hdecode⟩ := Option.map_eq_some_iff.1 h
  obtain ⟨-, hword⟩ := Option.ite_none_right_eq_some.1 he
  rwa [Option.some.inj hword]

/-- The next step decodes the word placed on its ports (R31), and the words presented after it stay. -/
theorem step_withFetchWord (s : State) (nbits w : Nat) :
    step (s.withFetchWord nbits w) =
      exec (decode (BitVec.ofNat 3 (w % 2 ^ nbits))) (s.present s.input.tail) := by
  have h := step_of_cons (s := s.withFetchWord nbits w) rfl
  rw [word_ofWord] at h
  exact h

/-- Settles O8: the step and the table decoder read the same event word. -/
theorem fetchedTableWordRuns : Obligations.FetchedTableWordRuns := by
  intro s w i _ hdecode
  rw [step_withFetchWord, decode_of_decodeTableWord hdecode]
  rfl

end Sys2Proof.Machine
end

section
/-! PROOFS, family `40_carrier.md`: the carrier step counter (R37), the comparator (R38), CAR (R39), and what runs of
CAR steps do: carrier fidelity (R40), boundary duties (R41) and leading-edge alignment (R42). -/

namespace Sys2Proof.Machine

/-! ### The carrier step counter -/

theorem nextStep_of_wrap {c : WfCfg} {x : Nat} (h : x + 1 = c.carrierPeriod) : nextStep c x = 0 :=
  if_pos h

theorem nextStep_of_ne {c : WfCfg} {x : Nat} (h : x + 1 ≠ c.carrierPeriod) : nextStep c x = x + 1 :=
  if_neg h

/-- The counter of R37 is an increment modulo `CARRIER_PERIOD`. -/
theorem nextStep_eq_mod (c : WfCfg) {x : Nat} (h : x < c.carrierPeriod) :
    nextStep c x = (x + 1) % c.carrierPeriod := by
  by_cases hw : x + 1 = c.carrierPeriod
  · rw [nextStep_of_wrap hw, hw, Nat.mod_self]
  · rw [nextStep_of_ne hw, Nat.mod_eq_of_lt (by omega)]

/-- Settles O29: the two branches of the counter, and its range. -/
theorem carrierStepCounter : Obligations.CarrierStepCounter := by
  intro c x hx
  exact ⟨nextStep_of_wrap, nextStep_of_ne, nextStep_lt c hx, fun hone => nextStep_of_wrap hone.symm⟩

/-- Settles O30: the widths of R6 reach `CARRIER_PERIOD` and `N`, and an address sum is below twice `N`. -/
theorem counterArithmeticNeverOverflows : Obligations.CounterArithmeticNeverOverflows := by
  intro c
  refine ⟨fun x hx => ⟨nextStep_eq_mod c hx, hx, le_two_pow_max_one_clog2 c.carrierPeriod⟩, fun i o hi ho => ?_⟩
  have hsum : i + o < 2 * c.n := by omega
  have hidx : c.n ≤ 2 ^ widthIdx c.toCfg := le_two_pow_max_one_clog2 c.n
  refine ⟨hsum, ?_⟩
  rw [Nat.pow_succ']
  exact hsum.trans_le (Nat.mul_le_mul_left 2 hidx)

/-! ### The comparator -/

@[simp] theorem phaseCmp_eq_true_iff (x d : Nat) : phaseCmp x d = true ↔ x < d :=
  decide_eq_true_iff

@[simp] theorem phaseCmp_eq_false_iff (x d : Nat) : phaseCmp x d = false ↔ d ≤ x :=
  decide_eq_false_iff_not.trans Nat.not_lt

/-- Settles O31: each corner case is an instance of the comparison. -/
theorem comparatorIsStrictUnsigned : Obligations.ComparatorIsStrictUnsigned := by
  intro x d
  refine ⟨phaseCmp_eq_true_iff x d, ?_, ?_, fun period hx hd => ?_, comparePhases_get x⟩
  · exact (phaseCmp_eq_false_iff x 0).2 (Nat.zero_le x)
  · exact (phaseCmp_eq_false_iff d d).2 le_rfl
  · exact (phaseCmp_eq_true_iff x d).2 (hx.trans_le hd)

/-! ### CAR -/

/-- Settles O32: a live CAR in range performs its writes, whose step is the increment modulo `CARRIER_PERIOD`. -/
theorem carTick : Obligations.CarTick := by
  intro s
  refine ⟨fun hl => tickBeforeResetFaults s .car hl (.inl rfl), fun hl hstep hduty => ?_⟩
  have hreads : checkCarReads s.cfg s.arch = .ok () :=
    (checkCarReads_ok_iff s.cfg s.arch).2 ⟨hstep, hduty .a, hduty .b, hduty .c⟩
  rw [exec_car_of_live hl hreads, carWrites, nextStep_eq_mod s.cfg hstep]
  rfl

/-! ### Runs of CAR steps -/

/-- The state after `k` CAR steps: their events consumed, and the writes of CAR made `k` times. -/
def State.afterCars (s : State) (k : Nat) : State :=
  (s.present (s.input.drop k)).put ((carWrites s.cfg)^[k] s.arch)

theorem afterCars_succ_of_cons {s : State} {e : InPorts} {rest : List InPorts} (h : s.input = e :: rest) (k : Nat) :
    s.afterCars (k + 1) = ((s.present rest).put (carWrites s.cfg s.arch)).afterCars k := by
  rw [State.afterCars, h]
  rfl

/-- One more CAR step, at the end of the run. -/
theorem afterCars_succ_arch (s : State) (k : Nat) :
    (s.afterCars (k + 1)).arch = carWrites s.cfg (s.afterCars k).arch :=
  Function.iterate_succ_apply' _ _ _

/-- CAR steps leave the duties as they are (R39). -/
theorem afterCars_duty (s : State) (k : Nat) : (s.afterCars k).arch.duty = s.arch.duty := by
  induction k with
  | zero => rfl
  | succ k ih => rw [afterCars_succ_arch, carWrites_duty, ih]

/-- CAR steps count modulo `CARRIER_PERIOD` (R37). -/
theorem afterCars_carStep {s : State} (h : s.arch.carStep < s.cfg.carrierPeriod) (k : Nat) :
    (s.afterCars k).arch.carStep = (s.arch.carStep + k) % s.cfg.carrierPeriod := by
  induction k with
  | zero => exact (Nat.mod_eq_of_lt h).symm
  | succ k ih =>
    have hlt : (s.arch.carStep + k) % s.cfg.carrierPeriod < s.cfg.carrierPeriod :=
      Nat.mod_lt _ (wf_period_pos s.cfg)
    rw [afterCars_succ_arch, carWrites_carStep, ih, nextStep_eq_mod s.cfg hlt, Nat.mod_add_mod, Nat.add_assoc]

/-- After a CAR step each phase compares the step it left with the duty it found (R39). -/
theorem afterCars_succ_phase (s : State) (k : Nat) (p : Phase) :
    (s.afterCars (k + 1)).arch.phase.get p =
      decide ((s.afterCars (k + 1)).arch.carStep < s.arch.duty.get p) := by
  rw [← afterCars_duty s k, afterCars_succ_arch]
  exact comparePhases_get_decide _ _ p

/-- From a running state CAR steps all complete, by induction on their number: the first one completes and leaves a
running state with one event less to come. -/
theorem runsTo_afterCars {s : State} {k : Nat} (hrun : s.Running) (hcars : s.nextEvents k = List.replicate k .car) :
    s.RunsTo k (s.afterCars k) := by
  induction k generalizing s with
  | zero => exact run_zero s
  | succ k ih =>
    obtain ⟨e, rest, hin⟩ := exists_input_eq_cons_of_nextEvents (hcars.trans List.replicate_succ')
    rw [nextEvents_succ_of_cons hin, List.replicate_succ, List.cons.injEq] at hcars
    obtain ⟨hcar, hrest⟩ := hcars
    obtain ⟨u, hu, hurun, -⟩ := exec_reader_of_running (s := s.present rest) (.inr rfl) hrun
    have hstep : step s = .next u := by rw [step_of_cons hin, hcar, hu]
    have hurest : u.nextEvents k = List.replicate k .car := (nextEvents_congr (exec_keeps hu).2 k).trans hrest
    obtain ⟨-, -, rfl⟩ := exec_car_inv hu
    rw [afterCars_succ_of_cons hin]
    exact (run_succ_of_next hstep).trans (ih hurun hurest)

/-- A running state's duties are within their range (R15). -/
theorem duty_get_le_of_running {s : State} (h : s.Running) (p : Phase) : s.arch.duty.get p ≤ s.cfg.dutyMax := by
  obtain ⟨-, -, -, ha, hb, hc⟩ := h
  cases p <;> assumption

theorem carStep_lt_of_running {s : State} (h : s.Running) : s.arch.carStep < s.cfg.carrierPeriod := by
  obtain ⟨-, -, hstep, -⟩ := h
  exact hstep

/-- Settles O34: the last of the CAR steps compares a step below `CARRIER_PERIOD` with the duty. -/
theorem boundaryDuties : Obligations.BoundaryDuties := by
  intro s k p hrun hk hcars
  obtain ⟨k, rfl⟩ := Nat.exists_eq_succ_of_ne_zero hk.ne'
  refine ⟨s.afterCars (k + 1), runsTo_afterCars hrun hcars, fun hzero => ?_, fun hfull => ⟨?_, ?_⟩⟩
  · rw [afterCars_succ_phase, hzero]
    exact decide_eq_false (Nat.not_lt_zero _)
  · rw [afterCars_succ_phase, hfull, afterCars_carStep (carStep_lt_of_running hrun)]
    exact decide_eq_true (Nat.mod_lt _ (wf_period_pos s.cfg))
  · have hle := duty_get_le_of_running hrun p
    exact (wf_duty_le_period s.cfg).antisymm (hfull ▸ hle)

/-- Settles O35: from the last step of a cycle, `j + 1` CAR steps are a wrap and `j` increments. -/
theorem leadingEdgeAlignment : Obligations.LeadingEdgeAlignment := by
  intro s j hrun hlast hj hcars
  have hstep : (s.afterCars (j + 1)).arch.carStep = j := by
    calc (s.afterCars (j + 1)).arch.carStep
        = (s.arch.carStep + (j + 1)) % s.cfg.carrierPeriod := afterCars_carStep (carStep_lt_of_running hrun) _
      _ = (s.cfg.carrierPeriod + j) % s.cfg.carrierPeriod := by rw [← hlast, Nat.add_right_comm, Nat.add_assoc]
      _ = j := by rw [Nat.add_mod_left, Nat.mod_eq_of_lt hj]
  refine ⟨s.afterCars (j + 1), runsTo_afterCars hrun hcars, hstep, fun p => ?_⟩
  rw [afterCars_succ_phase, hstep]

/-! ### Carrier fidelity -/

/-- The events to come before an earlier time are the first of those before a later one. -/
theorem nextEvents_of_le (s : State) {j k : Nat} (h : j ≤ k) : s.nextEvents j = (s.nextEvents k).take j := by
  simp [State.nextEvents, eventsOf, ← List.map_take, List.take_take, h]

/-- Any `m` numbers in a row take every remainder modulo `m` exactly once. -/
theorem map_add_mod_range_perm (n m : Nat) :
    ((List.range m).map fun k => (n + k) % m).Perm (List.range m) := by
  have hico : Multiset.Ico n (n + m) = ((List.range m).map (n + ·) : List Nat) := by
    rw [← List.range'_eq_map_range]
    exact congrArg (fun l => (List.range' n l : Multiset Nat)) (Nat.add_sub_cancel_left n m)
  have hmod := Nat.multiset_Ico_map_mod n m
  rw [hico, Multiset.map_coe, List.map_map] at hmod
  exact Multiset.coe_eq_coe.1 hmod

/-- The steps that any `CARRIER_PERIOD` CAR steps leave are those below `CARRIER_PERIOD`, each once. -/
theorem map_afterCars_carStep_perm {s : State} (h : s.arch.carStep < s.cfg.carrierPeriod) :
    ((List.range s.cfg.carrierPeriod).map fun k => (s.afterCars (k + 1)).arch.carStep).Perm
      (List.range s.cfg.carrierPeriod) := by
  have hsteps : ∀ k, (s.afterCars (k + 1)).arch.carStep = (s.arch.carStep + 1 + k) % s.cfg.carrierPeriod := by
    intro k
    rw [afterCars_carStep h, Nat.add_right_comm, Nat.add_assoc]
  simp only [hsteps]
  exact map_add_mod_range_perm (s.arch.carStep + 1) s.cfg.carrierPeriod

/-- Of the numbers below `m` exactly `d` are below `d`, if `d` is at most `m`. -/
theorem countP_range_lt {d m : Nat} (h : d ≤ m) : (List.range m).countP (fun x => decide (x < d)) = d := by
  rw [List.countP_eq_length_filter, ← List.Ico.zero_bot, List.Ico.filter_lt_of_ge h, List.Ico.length, Nat.sub_zero]

/-- Settles O33: the steps left are a rearrangement of those below `CARRIER_PERIOD`, of which exactly `d` are below a
duty `d`. -/
theorem carrierFidelity : Obligations.CarrierFidelity := by
  intro s hrun hcars
  have hperm := map_afterCars_carStep_perm (carStep_lt_of_running hrun)
  refine ⟨s.afterCars, fun k hk => ⟨?_, afterCars_duty s k⟩, fun v hv => ?_, fun p => ?_⟩
  · refine runsTo_afterCars hrun ?_
    rw [nextEvents_of_le s hk, hcars, List.take_replicate, Nat.min_eq_left hk]
  · obtain ⟨k, hk, hkv⟩ := List.mem_map.1 (hperm.mem_iff.2 (List.mem_range.2 hv))
    have hnodup := hperm.nodup_iff.2 List.nodup_range
    refine ⟨k, ⟨List.mem_range.1 hk, hkv⟩, fun j ⟨hj, hjv⟩ => ?_⟩
    exact List.inj_on_of_nodup_map hnodup (List.mem_range.2 hj) hk (hjv.trans hkv.symm)
  · have hle : s.arch.duty.get p ≤ s.cfg.carrierPeriod :=
      (duty_get_le_of_running hrun p).trans (wf_duty_le_period s.cfg)
    have hcount := hperm.countP_eq fun x => decide (x < s.arch.duty.get p)
    rw [List.countP_map, countP_range_lt hle] at hcount
    simpa only [afterCars_succ_phase, Function.comp_def] using hcount

end Sys2Proof.Machine
end

section
/-! PROOFS, family `41_modulation.md`: the offsets (R43), the table address (R44), the duty triple (R45), the modulation
counter (R46), MOD (R47), the leads of phases B and C (R50), and the periodic envelope (R49). -/

namespace Sys2Proof.Machine

/-! ### The offsets and the table address -/

/-- Settles O37: the offsets are those of R5's check `WF_OFFSETS`, in both of its readings. -/
theorem offsetsAreThirds : Obligations.OffsetsAreThirds := by
  intro c
  obtain ⟨ha, hb, hc⟩ := wf_offsets c
  obtain ⟨-, hb3, hc3⟩ := wf_offsets_exact c
  exact ⟨ha, hb, hc, hb3, hc3, off_lt c⟩

theorem addr_of_le {c : WfCfg} {i o : Nat} (h : c.n ≤ i + o) : addr c i o = i + o - c.n :=
  if_pos h

theorem addr_of_lt {c : WfCfg} {i o : Nat} (h : i + o < c.n) : addr c i o = i + o :=
  if_neg h.not_ge

/-- One conditional subtraction is the sum modulo `N` (R44). -/
theorem addr_eq_mod (c : WfCfg) {i o : Nat} (hi : i < c.n) (ho : o < c.n) : addr c i o = (i + o) % c.n := by
  obtain hle | hlt := le_or_gt c.n (i + o)
  · have hsub : i + o - c.n < c.n := by omega
    rw [addr_of_le hle, Nat.mod_eq_sub_mod hle, Nat.mod_eq_of_lt hsub]
  · rw [addr_of_lt hlt, Nat.mod_eq_of_lt hlt]

theorem addr_of_add_eq {c : WfCfg} {i o : Nat} (h : i + o = c.n) : addr c i o = 0 := by
  rw [addr_of_le h.ge, h, Nat.sub_self]

/-- From the last index a positive offset leads past the wrap. -/
theorem addr_of_last {c : WfCfg} {i o : Nat} (hi : i + 1 = c.n) (ho : 0 < o) : addr c i o = o - 1 := by
  have hle : c.n ≤ i + o := by omega
  rw [addr_of_le hle]
  omega

/-- Settles O38: the sum modulo `N`, and the corner cases by the branch of the address generator they take. -/
theorem addressIsSumModuloN : Obligations.AddressIsSumModuloN := by
  intro c i o hi ho
  refine ⟨addr_eq_mod c hi ho, addr_lt c hi ho, addr_of_lt hi, addr_of_add_eq, fun hlast => ?_⟩
  obtain ⟨-, hb, hc⟩ := wf_offsets c
  have hn := wf_n_ge_three c
  constructor
  · rw [addr_of_last hlast (by omega), hb]
  · rw [addr_of_last hlast (by omega), hc]

/-! ### The duty triple and the modulation counter -/

/-- The triple generated from an index holds for each phase the table word at its offset from that index (R45). -/
theorem gen_get {c : WfCfg} {i : Nat} {t : Triple Nat} (hi : i < c.n) (h : gen c i = .ok t) (p : Phase) :
    c.sineTable[(i + off c p) % c.n]? = some (t.get p) := by
  obtain ⟨t', ht', hwords, -⟩ := gen_ok c i hi
  obtain rfl : t = t' := Except.ok.inj (h.symm.trans ht')
  rw [← addr_eq_mod c hi (off_lt c p)]
  exact hwords p

/-- Settles O39: the three reads succeed, each at its phase's offset. -/
theorem dutyTripleIsThreeSamples : Obligations.DutyTripleIsThreeSamples := by
  intro c i hi
  obtain ⟨t, ht, -, hda, hdb, hdc⟩ := gen_ok c i hi
  obtain ⟨ha, hb, hc⟩ := wf_offsets c
  have hwords := gen_get hi ht
  have hwa : c.sineTable[i]? = some t.a := by
    have hword := hwords .a
    rwa [ha, Nat.add_zero, Nat.mod_eq_of_lt hi] at hword
  rw [← hb, ← hc]
  exact ⟨t, ht, hwa, hwords .b, hwords .c, fun p => by cases p <;> assumption⟩

/-- Settles O40: the two branches of the counter, and its range. -/
theorem modulationCounter : Obligations.ModulationCounter := by
  intro c i hi
  exact ⟨fun hwrap => if_pos hwrap, fun hne => if_neg hne, nextIdx_eq_mod c hi, nextIdx_lt c hi⟩

/-! ### MOD -/

/-- MOD on a live state whose index is in range (R47). -/
theorem exec_mod_of_live {s : State} {d : Triple Nat} (hl : s.arch.live = true)
    (hd : sampleTriple s.cfg s.arch = .ok d) : exec .mod s = .next (s.put (modWrites s.cfg d s.arch)) :=
  (finish_next_iff s _ _).2 ⟨_, modOp_ok s.cfg s.arch d hl hd, rfl⟩

/-- Settles O18: `live` and the index, which are all that MOD reads, are the same in both states. -/
theorem modIgnoresCarrierHalf : Obligations.ModIgnoresCarrierHalf := by
  intro s t x ph h
  obtain ⟨hl, d, hd, rfl⟩ := exec_mod_inv h
  exact exec_mod_of_live (s := s.put { s.arch with carStep := x, phase := ph }) hl hd

/-- Settles O41: a live MOD in range performs its writes, with the triple of its index and the index advanced. -/
theorem modTick : Obligations.ModTick := by
  intro s
  refine ⟨fun hl => tickBeforeResetFaults s .mod hl (.inr (.inl rfl)), fun hl hidx => ?_⟩
  obtain ⟨d, hd, ha, hb, hc, -⟩ := dutyTripleIsThreeSamples s.cfg s.arch.modIdx hidx
  refine ⟨d, ha, hb, hc, ?_⟩
  rw [exec_mod_of_live hl ((sampleTriple_of_lt hidx).trans hd), modWrites, nextIdx_eq_mod s.cfg hidx]
  rfl

/-- A modulation tick writes the triple generated from the index it found (R47, R48, R53). -/
theorem exec_modulation_duty {i : Instr} {s t : State} (hi : i = .mod ∨ i = .carmod) (h : exec i s = .next t) :
    gen s.cfg s.arch.modIdx = .ok t.arch.duty := by
  obtain rfl | rfl := hi
  · obtain ⟨-, d, hd, rfl⟩ := exec_mod_inv h
    exact (sampleTriple_ok hd).2
  · obtain ⟨-, -, d, hd, rfl⟩ := exec_carmod_inv h
    simpa using (sampleTriple_ok hd).2

/-- MOD writes for each phase the table word at its offset from the index it found. -/
theorem exec_mod_duty_get {s t : State} (h : exec .mod s = .next t) (p : Phase) :
    s.cfg.sineTable[(s.arch.modIdx + off s.cfg p) % s.cfg.n]? = some (t.arch.duty.get p) := by
  obtain ⟨hidx, -⟩ := exec_modulation_modIdx (.inl rfl) h
  exact gen_get hidx (exec_modulation_duty (.inl rfl) h) p

/-- Every phase leads phase A by its offset: both read the same table word (R50). -/
theorem exec_mod_duty_lead {s u t v : State} (p : Phase) (hcfg : u.cfg = s.cfg) (hs : exec .mod s = .next t)
    (hu : exec .mod u = .next v) (hidx : u.arch.modIdx = (s.arch.modIdx + off s.cfg p) % s.cfg.n) :
    t.arch.duty.get p = v.arch.duty.a := by
  have hp := exec_mod_duty_get hs p
  have ha := exec_mod_duty_get hu .a
  rw [(wf_offsets u.cfg).1, hcfg, hidx, Nat.add_zero, Nat.mod_mod] at ha
  exact Option.some.inj (hp.symm.trans ha)

/-- Settles O42: the leads of the two phases whose offset is not 0. -/
theorem phaseLeads : Obligations.PhaseLeads := by
  intro s u t v _ _ hcfg hs hu
  obtain ⟨-, hb, hc⟩ := wf_offsets s.cfg
  rw [← hb, ← hc]
  exact ⟨exec_mod_duty_lead .b hcfg hs hu, exec_mod_duty_lead .c hcfg hs hu⟩

/-! ### Runs without RST -/

/-- What `m` modulation ticks and no RST between `s` and `t` leave: the index `m` further on modulo `N`, and the triple
of the index before the last of these ticks, or the old one if there was none (R48, R62). -/
structure AfterModulations (s : State) (m : Nat) (t : State) : Prop where
  cfg : t.cfg = s.cfg
  modIdx : t.arch.modIdx = (s.arch.modIdx + m) % s.cfg.n
  held : m = 0 → t.arch.duty = s.arch.duty
  sampled : 0 < m → gen s.cfg ((s.arch.modIdx + m - 1) % s.cfg.n) = .ok t.arch.duty

/-- The words on the input ports are no ticks yet. -/
theorem afterModulations_present {s : State} (h : s.arch.modIdx < s.cfg.n) (trace : List InPorts) :
    AfterModulations s 0 (s.present trace) where
  cfg := rfl
  modIdx := (Nat.mod_eq_of_lt h).symm
  held _ := rfl
  sampled hm := absurd hm (Nat.lt_irrefl 0)

/-- The ticks of two stretches add up; the triple is that of the second one if it has a tick, else of the first. -/
theorem AfterModulations.trans {s u t : State} {m k : Nat} (hu : AfterModulations s m u)
    (ht : AfterModulations u k t) : AfterModulations s (m + k) t where
  cfg := ht.cfg.trans hu.cfg
  modIdx := by rw [ht.modIdx, hu.modIdx, hu.cfg, Nat.mod_add_mod, Nat.add_assoc]
  held hmk := by rw [ht.held (by omega), hu.held (by omega)]
  sampled hmk := by
    cases k with
    | zero => rw [ht.held rfl]; exact hu.sampled hmk
    | succ k =>
      have hgen := ht.sampled k.succ_pos
      rwa [hu.cfg, hu.modIdx, Nat.add_succ_sub_one, Nat.mod_add_mod, Nat.add_assoc] at hgen

/-- A modulation tick is one of them. -/
theorem afterModulations_of_tick {i : Instr} {s t : State} (hi : i = .mod ∨ i = .carmod) (h : exec i s = .next t) :
    AfterModulations s 1 t := by
  obtain ⟨hlt, hidx⟩ := exec_modulation_modIdx hi h
  exact {
    cfg := (exec_keeps h).1
    modIdx := by rw [hidx, nextIdx_eq_mod s.cfg hlt]
    held := fun h10 => absurd h10 Nat.one_ne_zero
    sampled := fun _ => by
      rw [Nat.add_sub_cancel, Nat.mod_eq_of_lt hlt]
      exact exec_modulation_duty hi h }

/-- NOP and CAR are none of them: they write neither the index nor the triple (R10). -/
theorem afterModulations_of_reader {i : Instr} {s t : State} (hi : i = .nop ∨ i = .car)
    (hlt : s.arch.modIdx < s.cfg.n) (h : exec i s = .next t) : AfterModulations s 0 t := by
  have hnot : i ∉ [Instr.mod, .carmod, .rst] := by obtain rfl | rfl := hi <;> decide
  obtain ⟨hkeep, -⟩ := onlyTheNamedWritersWrite i s t h
  obtain ⟨hidx, hduty⟩ := hkeep hnot
  exact {
    cfg := (exec_keeps h).1
    modIdx := hidx.trans (Nat.mod_eq_of_lt hlt).symm
    held := fun _ => hduty
    sampled := fun h0 => absurd h0 (Nat.lt_irrefl 0) }

/-- Every operation but RST makes as many modulation ticks as are counted for it. -/
theorem exec_afterModulations {i : Instr} {s t : State} (hi : i ≠ .rst) (hlt : s.arch.modIdx < s.cfg.n)
    (h : exec i s = .next t) : AfterModulations s ([i].countP ticksModulation) t := by
  cases i with
  | nop => exact afterModulations_of_reader (.inl rfl) hlt h
  | car => exact afterModulations_of_reader (.inr rfl) hlt h
  | mod => exact afterModulations_of_tick (.inl rfl) h
  | carmod => exact afterModulations_of_tick (.inr rfl) h
  | rst => exact absurd rfl hi

theorem nextEvents_of_nil {s : State} (h : s.input = []) (k : Nat) : s.nextEvents k = [] := by
  simp [State.nextEvents, eventsOf, h]

/-- A run without RST makes the modulation ticks presented for it, by induction on its length: a first step with an
event makes that event's, one with nothing presented makes none. -/
theorem runsTo_afterModulations {k : Nat} {s t : State} (hlt : s.arch.modIdx < s.cfg.n)
    (hrst : Instr.rst ∉ s.nextEvents k) (h : s.RunsTo k t) :
    AfterModulations s ((s.nextEvents k).countP ticksModulation) t := by
  induction k generalizing s with
  | zero =>
    cases h
    exact afterModulations_present hlt t.input
  | succ k ih =>
    obtain ⟨u, hstep, hrun⟩ := run_succ_inv h
    match hin : s.input with
    | [] =>
      obtain rfl : s = u := Host.Outcome.next.inj ((step_of_nil hin).symm.trans hstep)
      have hrest := ih hlt (by simp [nextEvents_of_nil hin]) hrun
      rwa [nextEvents_of_nil hin] at hrest ⊢
    | p :: rest =>
      rw [step_of_cons hin] at hstep
      rw [nextEvents_succ_of_cons hin] at hrst ⊢
      obtain ⟨hhead, htail⟩ := List.ne_and_not_mem_of_not_mem_cons hrst
      have hfirst := exec_afterModulations (s := s.present rest) hhead.symm hlt hstep
      have hevents : u.nextEvents k = (s.present rest).nextEvents k := nextEvents_congr (exec_keeps hstep).2 k
      have hult : u.arch.modIdx < u.cfg.n := by
        rw [hfirst.modIdx, hfirst.cfg]
        exact Nat.mod_lt _ (wf_n_pos s.cfg)
      have hrest := ih hult (by rwa [hevents]) hrun
      have hall := ((afterModulations_present hlt rest).trans hfirst).trans hrest
      rwa [Nat.zero_add, hevents, ← List.countP_append] at hall

/-- Settles O44: `N` more ticks change neither the index nor the index of the last sample, modulo `N`. -/
theorem envelopeIsPeriodic : Obligations.EnvelopeIsPeriodic := by
  intro s t u j k hs hjk hrst hcount hj hk
  obtain ⟨-, hlt, -⟩ := hs
  have hrstj : Instr.rst ∉ s.nextEvents j := by
    rw [nextEvents_of_le s hjk]
    exact fun hmem => hrst (List.mem_of_mem_take hmem)
  have ht := runsTo_afterModulations hlt hrstj hj
  have hu := runsTo_afterModulations hlt hrst hk
  rw [hcount] at hu
  refine ⟨?_, fun hpos => ?_⟩
  · rw [hu.modIdx, ht.modIdx, ← Nat.add_assoc, Nat.add_mod_right]
  · have hgen := hu.sampled (by omega)
    rw [← Nat.add_assoc, Nat.sub_add_comm (by omega), Nat.add_mod_right, ht.sampled hpos] at hgen
    exact (Except.ok.inj hgen).symm

end Sys2Proof.Machine
end

section
/-! PROOFS, family `42_control.md`: NOP and the step with no event (R52), CARMOD and its two serial orders (R53), and
RST (R54, R67). -/

namespace Sys2Proof.Machine

/-! ### NOP and absent events -/

/-- Settles O46: NOP answers the state it is given. -/
theorem nopChangesNothing : Obligations.NopChangesNothing := by
  intro s
  rfl

/-- Settles O6: a step with nothing presented samples the idle ports, whose word is that of NOP. -/
theorem stepWithNothingPresentedIsIdle : Obligations.StepWithNothingPresentedIsIdle := by
  intro s h
  exact step_of_nil h

/-! ### What a running state's ticks read -/

theorem checkCarReads_of_running {s : State} (hs : s.Running) : checkCarReads s.cfg s.arch = .ok () := by
  obtain ⟨-, -, hreads⟩ := hs
  exact (checkCarReads_ok_iff s.cfg s.arch).2 hreads

theorem sampleTriple_of_running {s : State} (hs : s.Running) : ∃ d, sampleTriple s.cfg s.arch = .ok d := by
  obtain ⟨-, hidx, -⟩ := hs
  obtain ⟨d, hd, -⟩ := gen_ok s.cfg s.arch.modIdx hidx
  exact ⟨d, (sampleTriple_of_lt hidx).trans hd⟩

theorem running_put_modWrites {s : State} {d : Triple Nat} (hs : s.Running)
    (hd : sampleTriple s.cfg s.arch = .ok d) : (s.put (modWrites s.cfg d s.arch)).Running := by
  obtain ⟨hl, hrange⟩ := hs
  exact ⟨hl, modWrites_inRange hrange hd⟩

/-! ### The serial orders of CARMOD -/

/-- The tick a serial order performs first (R53). -/
def SerialOrder.first : SerialOrder → Instr
  | .carFirst => .car
  | .modFirst => .mod

/-- The tick a serial order performs second (R53). -/
def SerialOrder.second : SerialOrder → Instr
  | .carFirst => .mod
  | .modFirst => .car

/-- From a running state the two ticks of a serial order complete, and together make the writes of that order: a CAR
leaves `mod_idx` to the MOD after it, and a MOD leaves the CAR after it duties that are table words (R53). -/
theorem exec_serial_of_running {s : State} {d : Triple Nat} (o : SerialOrder) (hs : s.Running)
    (hd : sampleTriple s.cfg s.arch = .ok d) :
    ∃ m, exec o.first s = .next m ∧ exec o.second m = .next (s.put (serialWrites s.cfg d s.arch o)) := by
  have ⟨hl, _⟩ := hs
  cases o with
  | carFirst =>
    have hd' : sampleTriple s.cfg (carWrites s.cfg s.arch) = .ok d := hd
    exact ⟨_, exec_car_of_live hl (checkCarReads_of_running hs),
      exec_mod_of_live (s := s.put (carWrites s.cfg s.arch)) hl hd'⟩
  | modFirst =>
    have hm := running_put_modWrites hs hd
    exact ⟨_, exec_mod_of_live hl hd, exec_car_of_live hl (checkCarReads_of_running hm)⟩

/-- CARMOD on a live state whose step, duties and index are in range (R53). -/
theorem exec_carmod_of_live {s : State} {d : Triple Nat} (hl : s.arch.live = true)
    (hc : checkCarReads s.cfg s.arch = .ok ()) (hd : sampleTriple s.cfg s.arch = .ok d) :
    exec .carmod s =
      .next ((s.useDraws 1).put (serialWrites s.cfg d s.arch (chosenOrder s.cfg s.draws))) :=
  (finish_next_iff (s.useDraws 1) _ _).2 ⟨_, carmodOp_ok s.cfg _ s.arch d hl hc hd, rfl⟩

/-- The order performed is one of `ADMITTED_ORDERS` (R53), whatever the draw is. -/
theorem chosenOrder_mem_admittedOrders (c : WfCfg) (k : Nat) :
    chosenOrder c k ∈ admittedOrders c.carmodOrder := by
  unfold chosenOrder
  cases c.carmodOrder with
  | any => cases Config.carFirstDraw k <;> decide
  | carFirst => exact List.mem_cons_self
  | modFirst => exact List.mem_cons_self

theorem carFirst_mem_admittedOrders_iff (x : CarmodOrder) : .carFirst ∈ admittedOrders x ↔ x ≠ .modFirst := by
  cases x <;> decide

theorem modFirst_mem_admittedOrders_iff (x : CarmodOrder) : .modFirst ∈ admittedOrders x ↔ x ≠ .carFirst := by
  cases x <;> decide

/-- The ticks of an admitted order are CAR then MOD, or MOD then CAR, as `CARMOD_ORDER` allows (R53). -/
theorem first_second_of_mem_admittedOrders {o : SerialOrder} {x : CarmodOrder} (h : o ∈ admittedOrders x) :
    (o.first = .car ∧ o.second = .mod ∧ x ≠ .modFirst) ∨
      (o.first = .mod ∧ o.second = .car ∧ x ≠ .carFirst) := by
  cases o with
  | carFirst => exact .inl ⟨rfl, rfl, (carFirst_mem_admittedOrders_iff x).1 h⟩
  | modFirst => exact .inr ⟨rfl, rfl, (modFirst_mem_admittedOrders_iff x).1 h⟩

/-- Settles O47: a running CARMOD makes the writes of the order it performs, and so do that order's two ticks. -/
theorem carmodIsAnAdmittedSerialOrder : Obligations.CarmodIsAnAdmittedSerialOrder := by
  intro s
  refine ⟨fun hl => tickBeforeResetFaults s .carmod hl (.inr (.inr rfl)), fun hs => ?_⟩
  have ⟨hl, _⟩ := hs
  obtain ⟨d, hd⟩ := sampleTriple_of_running hs
  obtain ⟨m, hfirst, hsecond⟩ := exec_serial_of_running (chosenOrder s.cfg s.draws) hs hd
  exact ⟨_, _, first_second_of_mem_admittedOrders (chosenOrder_mem_admittedOrders s.cfg s.draws), m, _, hfirst,
    hsecond, exec_carmod_of_live hl (checkCarReads_of_running hs) hd⟩

/-- After CAR then MOD the phases compare the new step with the old duties (R53). -/
theorem serialWrites_carFirst_phase (c : WfCfg) (d : Triple Nat) (r : Arch) :
    (serialWrites c d r .carFirst).phase = comparePhases (nextStep c r.carStep) r.duty := rfl

/-- After MOD then CAR the phases compare the new step with the new duties (R53). -/
theorem serialWrites_modFirst_phase (c : WfCfg) (d : Triple Nat) (r : Arch) :
    (serialWrites c d r .modFirst).phase = comparePhases (nextStep c r.carStep) d := rfl

/-- Settles O48: the writes of the two orders agree but for the duties their phases compare with. -/
theorem carmodOrdersDifferOnlyInPhases : Obligations.CarmodOrdersDifferOnlyInPhases := by
  intro s hs
  obtain ⟨d, hd⟩ := sampleTriple_of_running hs
  obtain ⟨m, hcar, hcarMod⟩ := exec_serial_of_running .carFirst hs hd
  obtain ⟨n, hmod, hmodCar⟩ := exec_serial_of_running .modFirst hs hd
  refine ⟨m, _, n, _, hcar, hcarMod, hmod, hmodCar, by simp, by simp, by simp, fun p => ?_⟩
  simp only [put_arch, serialWrites_carFirst_phase, serialWrites_modFirst_phase, comparePhases_get_decide,
    serialWrites_carStep, serialWrites_duty, ne_eq, decide_eq_decide]

/-! ### RST -/

theorem exec_rst (s : State) : exec .rst s = .next ((s.useDraws 4).put (rstWrites s.cfg s.draws)) := rfl

/-- RST leaves a running state, whatever state it is performed in (R15, R54, R67). -/
theorem running_of_exec_rst {s t : State} (h : exec .rst s = .next t) : t.Running := by
  obtain rfl := exec_rst_inv h
  exact ⟨rstWrites_live _ _, rstWrites_inRange _ _⟩

/-- Settles O49: RST reads nothing, so it completes; under `ANY` the ranges are those of a running state. -/
theorem resetWritesEveryElement : Obligations.ResetWritesEveryElement := by
  intro s
  have hrun := running_of_exec_rst (exec_rst s)
  have ⟨hl, _⟩ := hrun
  refine ⟨_, exec_rst s, rfl, rfl, hl, exec_rst_modIdx (exec_rst s), fun hz => ?_, fun _ => ?_⟩
  · rw [put_arch, rstWrites_of_zero hz]
    exact ⟨rfl, rfl, rfl⟩
  · exact ⟨carStep_lt_of_running hrun, duty_get_le_of_running hrun⟩

end Sys2Proof.Machine
end

section
/-! PROOFS, family `60_exceptions.md`: a reset request with ticks (R58), the tick faults of R56 in the order they are
checked, completion of every operation in a running state (R55), and the tick counters along runs without RST (R62). -/

namespace Sys2Proof.Machine

/-! ### A reset request -/

/-- `rst` dominates the ticks (R32). -/
theorem decode_word_of_rst {p : InPorts} (h : p.rst = true) : decode p.word = .rst := by
  obtain ⟨r, m, k⟩ := p
  obtain rfl : r = true := h
  cases m <;> cases k <;> rfl

/-- Settles O7: the sampled word decodes to RST, whatever its two tick bits are. -/
theorem resetRequestDiscardsTicks : Obligations.ResetRequestDiscardsTicks := by
  intro s m k rest hin
  rw [step_of_cons hin, decode_word_of_rst rfl]
  rfl

/-! ### Elements outside their ranges -/

theorem checkCarReads_of_carStep_ge {c : WfCfg} {r : Arch} (h : c.carrierPeriod ≤ r.carStep) :
    checkCarReads c r = .error (.stateOutOfRange .carStep) := by
  rw [checkCarReads, readCarStep, if_neg h.not_gt]
  rfl

/-- With the step in range, CAR's reads fail as the read of the duties does. -/
theorem checkCarReads_of_readDuty_error {c : WfCfg} {r : Arch} {f : Fault} (hstep : r.carStep < c.carrierPeriod)
    (h : readDuty c r = .error f) : checkCarReads c r = .error f := by
  rw [checkCarReads, readCarStep, if_pos hstep, h]
  rfl

theorem readDuty_of_a_gt {c : WfCfg} {r : Arch} (ha : c.dutyMax < r.duty.a) :
    readDuty c r = .error (.stateOutOfRange .dutyA) :=
  if_pos ha

theorem readDuty_of_b_gt {c : WfCfg} {r : Arch} (ha : r.duty.a ≤ c.dutyMax) (hb : c.dutyMax < r.duty.b) :
    readDuty c r = .error (.stateOutOfRange .dutyB) := by
  rw [readDuty, if_neg ha.not_gt, if_pos hb]

theorem readDuty_of_c_gt {c : WfCfg} {r : Arch} (ha : r.duty.a ≤ c.dutyMax) (hb : r.duty.b ≤ c.dutyMax)
    (hc : c.dutyMax < r.duty.c) : readDuty c r = .error (.stateOutOfRange .dutyC) := by
  rw [readDuty, if_neg ha.not_gt, if_neg hb.not_gt, if_pos hc]

theorem sampleTriple_of_ge {c : WfCfg} {r : Arch} (h : c.n ≤ r.modIdx) :
    sampleTriple c r = .error (.stateOutOfRange .modIdx) := by
  rw [sampleTriple, readModIdx, if_neg h.not_gt]
  rfl

/-- CAR and CARMOD both check CAR's reads next after `live`, and fault as that check does. -/
theorem exec_of_checkCarReads_error {i : Instr} {s : State} {f : Fault} (hi : i = .car ∨ i = .carmod)
    (hl : s.arch.live = true) (h : checkCarReads s.cfg s.arch = .error f) : exec i s = .fault f := by
  obtain rfl | rfl := hi
  · rw [exec, execCar, carOp, requireLive_ok _ _ hl, h]
    rfl
  · rw [exec, execCarmod, carmodOp, requireLive_ok _ _ hl, h]
    rfl

theorem exec_mod_of_sampleTriple_error {s : State} {f : Fault} (hl : s.arch.live = true)
    (h : sampleTriple s.cfg s.arch = .error f) : exec .mod s = .fault f := by
  rw [exec, execMod, modOp, requireLive_ok _ _ hl, h]
  rfl

/-- CARMOD samples the triple last (log entry 3). -/
theorem exec_carmod_of_sampleTriple_error {s : State} {f : Fault} (hl : s.arch.live = true)
    (hc : checkCarReads s.cfg s.arch = .ok ()) (h : sampleTriple s.cfg s.arch = .error f) :
    exec .carmod s = .fault f := by
  rw [exec, execCarmod, carmodOp, requireLive_ok _ _ hl, hc, h]
  rfl

/-- Settles O24: each clause is the fault of one read, the reads before it succeeding. -/
theorem outOfRangeElementFaults : Obligations.OutOfRangeElementFaults := by
  intro s hl
  refine ⟨fun i hi => ?_, fun hidx => ?_, fun hstep hduty hidx => ?_⟩
  · have hfault {f : Fault} : checkCarReads s.cfg s.arch = .error f → exec i s = .fault f :=
      exec_of_checkCarReads_error hi hl
    exact ⟨fun hstep => hfault (checkCarReads_of_carStep_ge hstep),
      fun hstep ha => hfault (checkCarReads_of_readDuty_error hstep (readDuty_of_a_gt ha)),
      fun hstep ha hb => hfault (checkCarReads_of_readDuty_error hstep (readDuty_of_b_gt ha hb)),
      fun hstep ha hb hc => hfault (checkCarReads_of_readDuty_error hstep (readDuty_of_c_gt ha hb hc))⟩
  · exact exec_mod_of_sampleTriple_error hl (sampleTriple_of_ge hidx)
  · have hreads : checkCarReads s.cfg s.arch = .ok () :=
      (checkCarReads_ok_iff s.cfg s.arch).2 ⟨hstep, hduty .a, hduty .b, hduty .c⟩
    exact exec_carmod_of_sampleTriple_error hl hreads (sampleTriple_of_ge hidx)

/-! ### Every outcome of an operation -/

/-- The duties are all in range, or their read names one that is not (R56). -/
theorem readDuty_outcome (c : WfCfg) (r : Arch) :
    (r.duty.a ≤ c.dutyMax ∧ r.duty.b ≤ c.dutyMax ∧ r.duty.c ≤ c.dutyMax) ∨
      ∃ e, readDuty c r = .error (.stateOutOfRange e) := by
  obtain ha | ha := le_or_gt r.duty.a c.dutyMax
  · obtain hb | hb := le_or_gt r.duty.b c.dutyMax
    · obtain hc | hc := le_or_gt r.duty.c c.dutyMax
      · exact .inl ⟨ha, hb, hc⟩
      · exact .inr ⟨_, readDuty_of_c_gt ha hb hc⟩
    · exact .inr ⟨_, readDuty_of_b_gt ha hb⟩
  · exact .inr ⟨_, readDuty_of_a_gt ha⟩

/-- CAR's reads succeed, or name an element outside its range (R56). -/
theorem checkCarReads_outcome (c : WfCfg) (r : Arch) :
    checkCarReads c r = .ok () ∨ ∃ e, checkCarReads c r = .error (.stateOutOfRange e) := by
  obtain hstep | hstep := lt_or_ge r.carStep c.carrierPeriod
  · obtain hduty | ⟨e, he⟩ := readDuty_outcome c r
    · exact .inl ((checkCarReads_ok_iff c r).2 ⟨hstep, hduty⟩)
    · exact .inr ⟨e, checkCarReads_of_readDuty_error hstep he⟩
  · exact .inr ⟨_, checkCarReads_of_carStep_ge hstep⟩

/-- MOD's reads succeed, or `mod_idx` is outside its range: no address from an index in range is outside the ROM. -/
theorem sampleTriple_outcome (c : WfCfg) (r : Arch) :
    (∃ d, sampleTriple c r = .ok d) ∨ sampleTriple c r = .error (.stateOutOfRange .modIdx) := by
  obtain hidx | hidx := lt_or_ge r.modIdx c.n
  · obtain ⟨d, hd, -⟩ := gen_ok c r.modIdx hidx
    exact .inl ⟨d, (sampleTriple_of_lt hidx).trans hd⟩
  · exact .inr (sampleTriple_of_ge hidx)

/-- A live tick completes, or faults by an element outside its range. -/
theorem exec_tick_outcome {i : Instr} {s : State} (hi : i = .car ∨ i = .mod ∨ i = .carmod)
    (hl : s.arch.live = true) : (∃ t, exec i s = .next t) ∨ ∃ e, exec i s = .fault (.stateOutOfRange e) := by
  obtain rfl | rfl | rfl := hi
  · obtain hc | ⟨e, he⟩ := checkCarReads_outcome s.cfg s.arch
    · exact .inl ⟨_, exec_car_of_live hl hc⟩
    · exact .inr ⟨e, exec_of_checkCarReads_error (.inl rfl) hl he⟩
  · obtain ⟨d, hd⟩ | he := sampleTriple_outcome s.cfg s.arch
    · exact .inl ⟨_, exec_mod_of_live hl hd⟩
    · exact .inr ⟨_, exec_mod_of_sampleTriple_error hl he⟩
  · obtain hc | ⟨e, he⟩ := checkCarReads_outcome s.cfg s.arch
    · obtain ⟨d, hd⟩ | he := sampleTriple_outcome s.cfg s.arch
      · exact .inl ⟨_, exec_carmod_of_live hl hc hd⟩
      · exact .inr ⟨_, exec_carmod_of_sampleTriple_error hl hc he⟩
    · exact .inr ⟨e, exec_of_checkCarReads_error (.inr rfl) hl he⟩

/-- The faults R56 allows an operation in a state: those of the ticks, before reset and after it. -/
def TickFault (i : Instr) (s : State) (f : Fault) : Prop :=
  (i = .car ∨ i = .mod ∨ i = .carmod) ∧
    ((s.arch.live = false ∧ f = .tickBeforeReset i) ∨ (s.arch.live = true ∧ ∃ e, f = .stateOutOfRange e))

/-- An operation completes, or faults by a fault of R56. -/
theorem exec_outcome (i : Instr) (s : State) :
    (∃ t, exec i s = .next t) ∨ ∃ f, exec i s = .fault f ∧ TickFault i s f := by
  have htick (hi : i = .car ∨ i = .mod ∨ i = .carmod) :
      (∃ t, exec i s = .next t) ∨ ∃ f, exec i s = .fault f ∧ TickFault i s f := by
    cases hl : s.arch.live with
    | false => exact .inr ⟨_, tickBeforeResetFaults s i hl hi, hi, .inl ⟨hl, rfl⟩⟩
    | true =>
      obtain hnext | ⟨e, he⟩ := exec_tick_outcome hi hl
      · exact .inl hnext
      · exact .inr ⟨_, he, hi, .inr ⟨hl, e, rfl⟩⟩
  cases i with
  | nop => exact .inl ⟨s, rfl⟩
  | car => exact htick (.inl rfl)
  | mod => exact htick (.inr (.inl rfl))
  | carmod => exact htick (.inr (.inr rfl))
  | rst => exact .inl ⟨_, exec_rst s⟩

/-- Settles O26: neither of the two outcomes is a refusal, and the fault is the one R56 allows. -/
theorem noEventIsRefused : Obligations.NoEventIsRefused := by
  intro i s
  obtain ⟨t, ht⟩ | ⟨f, hf, htick⟩ := exec_outcome i s
  · simp [ht]
  · rw [hf]
    refine ⟨nofun, fun g hg => ?_⟩
    obtain rfl : f = g := Host.Outcome.fault.inj hg
    exact htick

/-! ### Running machines -/

/-- Settles O25: a running state's reads all succeed, and what each operation then writes is in range. -/
theorem runningMachineNeverStops : Obligations.RunningMachineNeverStops := by
  intro s i hs
  have ⟨hl, hrange⟩ := hs
  have hreader (hi : i = .nop ∨ i = .car) : ∃ t, exec i s = .next t ∧ t.Running := by
    obtain ⟨t, ht, hrun, -⟩ := exec_reader_of_running hi hs
    exact ⟨t, ht, hrun⟩
  obtain ⟨d, hd⟩ := sampleTriple_of_running hs
  cases i with
  | nop => exact hreader (.inl rfl)
  | car => exact hreader (.inr rfl)
  | mod => exact ⟨_, exec_mod_of_live hl hd, running_put_modWrites hs hd⟩
  | carmod =>
    exact ⟨_, exec_carmod_of_live hl (checkCarReads_of_running hs) hd,
      (serialWrites_live _ _ _ _).trans hl, serialWrites_inRange _ hrange hd⟩
  | rst => exact ⟨_, exec_rst s, running_of_exec_rst (exec_rst s)⟩

theorem step_of_running {s : State} (hs : s.Running) : ∃ t, step s = .next t ∧ t.Running :=
  runningMachineNeverStops s.consume _ hs

/-- A running machine runs on, whatever is presented to it and for however long (R55). -/
theorem runsTo_of_running {s : State} (hs : s.Running) (k : Nat) : ∃ t, s.RunsTo k t ∧ t.Running := by
  induction k generalizing s with
  | zero => exact ⟨s, run_zero s, hs⟩
  | succ k ih =>
    obtain ⟨u, hstep, hu⟩ := step_of_running hs
    obtain ⟨t, hrun, ht⟩ := ih hu
    exact ⟨t, (run_succ_of_next hstep).trans hrun, ht⟩

/-! ### The carrier counter along a run -/

/-- Every operation but RST advances the step by the carrier ticks counted for it (R37, R39, R53). -/
theorem exec_carStep {i : Instr} {s t : State} (hi : i ≠ .rst) (hlt : s.arch.carStep < s.cfg.carrierPeriod)
    (h : exec i s = .next t) :
    t.arch.carStep = (s.arch.carStep + [i].countP ticksCarrier) % s.cfg.carrierPeriod := by
  cases i with
  | nop =>
    obtain rfl := exec_nop_inv h
    exact (Nat.mod_eq_of_lt hlt).symm
  | car =>
    obtain ⟨-, -, rfl⟩ := exec_car_inv h
    exact nextStep_eq_mod s.cfg hlt
  | mod =>
    obtain ⟨-, d, -, rfl⟩ := exec_mod_inv h
    exact (Nat.mod_eq_of_lt hlt).symm
  | carmod =>
    obtain ⟨-, -, d, -, rfl⟩ := exec_carmod_inv h
    exact (serialWrites_carStep _ _ _ _).trans (nextStep_eq_mod s.cfg hlt)
  | rst => exact absurd rfl hi

/-- The next events begin with the one this step samples, but for the NOP sampled once the trace has ended. -/
theorem nextEvents_succ (s : State) (k : Nat) :
    s.nextEvents (k + 1) = decode s.sampled.word :: s.consume.nextEvents k ∨
      (decode s.sampled.word = .nop ∧ s.nextEvents (k + 1) = s.consume.nextEvents k) := by
  match hin : s.input with
  | [] =>
    have hidle : s.sampled = InPorts.idle := by rw [State.sampled, hin]
    have hrest : s.consume.input = [] := by rw [consume_input, hin, List.tail_nil]
    exact .inr ⟨by rw [hidle]; decide, by rw [nextEvents_of_nil hin, nextEvents_of_nil hrest]⟩
  | p :: rest =>
    have hhead : s.sampled = p := by rw [State.sampled, hin]
    have hrest : s.consume.input = rest := by rw [consume_input, hin, List.tail_cons]
    left
    rw [nextEvents_succ_of_cons hin, hhead]
    exact congrArg (decode p.word :: ·) (nextEvents_congr (t := s.present rest) hrest.symm k)

/-- A count that leaves NOP out counts the sampled event and those after it. -/
theorem countP_nextEvents_succ {p : Instr → Bool} (hp : p .nop = false) (s : State) (k : Nat) :
    (s.nextEvents (k + 1)).countP p =
      [decode s.sampled.word].countP p + (s.consume.nextEvents k).countP p := by
  obtain hcons | ⟨hnop, hrest⟩ := nextEvents_succ s k
  · rw [hcons, ← List.countP_append, List.singleton_append]
  · simp [hnop, hrest, hp]

theorem rst_not_mem_nextEvents_succ {s : State} {k : Nat} (h : Instr.rst ∉ s.nextEvents (k + 1)) :
    decode s.sampled.word ≠ .rst ∧ Instr.rst ∉ s.consume.nextEvents k := by
  obtain hcons | ⟨hnop, hrest⟩ := nextEvents_succ s k
  · rw [hcons] at h
    obtain ⟨hhead, htail⟩ := List.ne_and_not_mem_of_not_mem_cons h
    exact ⟨hhead.symm, htail⟩
  · rw [hrest] at h
    exact ⟨by simp [hnop], h⟩

/-- A run without RST advances the step by the carrier ticks presented for it, by induction on its length. -/
theorem runsTo_carStep {k : Nat} {s t : State} (hlt : s.arch.carStep < s.cfg.carrierPeriod)
    (hrst : Instr.rst ∉ s.nextEvents k) (h : s.RunsTo k t) :
    t.arch.carStep = (s.arch.carStep + (s.nextEvents k).countP ticksCarrier) % s.cfg.carrierPeriod := by
  induction k generalizing s with
  | zero =>
    cases h
    exact (Nat.mod_eq_of_lt hlt).symm
  | succ k ih =>
    obtain ⟨u, hstep, hrun⟩ := run_succ_inv h
    obtain ⟨hhead, htail⟩ := rst_not_mem_nextEvents_succ hrst
    have hcfg : u.cfg = s.cfg := step_keeps_cfg hstep
    have hfirst : u.arch.carStep =
        (s.arch.carStep + [decode s.sampled.word].countP ticksCarrier) % s.cfg.carrierPeriod :=
      exec_carStep (s := s.consume) hhead hlt hstep
    have hult : u.arch.carStep < u.cfg.carrierPeriod := by
      rw [hfirst, hcfg]
      exact Nat.mod_lt _ (wf_period_pos s.cfg)
    have hevents : u.nextEvents k = s.consume.nextEvents k := nextEvents_congr (exec_keeps hstep).2 k
    rw [ih hult (by rwa [hevents]) hrun, hevents, hcfg, hfirst, Nat.mod_add_mod, Nat.add_assoc,
      ← countP_nextEvents_succ rfl]

/-- Settles O43: the run completes from a running state, and the two counters are counted along it one by one. -/
theorem countersCountTicks : Obligations.CountersCountTicks := by
  intro s k hs hrst
  have ⟨_, hidx, hstep, _⟩ := hs
  obtain ⟨t, hrun, ht⟩ := runsTo_of_running hs k
  have hmod := runsTo_afterModulations hidx hrst hrun
  exact ⟨t, hrun, ht, hmod.cfg, hmod.modIdx, runsTo_carStep hstep hrst hrun, hmod.held, hmod.sampled⟩

end Sys2Proof.Machine
end

section
/-! PROOFS, family `70_reset_and_hazards.md`: the state after reset and the invariants there and at power-up (R67), boot
order (R68), the lag of the outputs behind MOD (R69), and the stretch from reset to the first MOD (R71). -/

namespace Sys2Proof.Machine

/-! ### Reset and power-up -/

/-- Before reset the three invariants say nothing, since no element holds a value (R19). -/
theorem invariants_of_not_live {s : State} (h : s.arch.live = false) : s.RangeInv ∧ s.LastSample ∧ s.Untorn := by
  have hnot : s.arch.live ≠ true := Bool.eq_false_iff.1 h
  exact ⟨fun hl => absurd hl hnot, fun hl => absurd hl hnot, fun hl => absurd hl hnot⟩

theorem reset_inRange : State.reset.arch.InRange State.reset.cfg :=
  zeroLive_inRange State.reset.cfg

/-- Settles O15: after reset the triple is the reset triple, and no phase is on, as step 0 compares with it. -/
theorem invariantsHoldAtResetAndPowerUp : Obligations.InvariantsHoldAtResetAndPowerUp := by
  refine ⟨fun _ => reset_inRange, ⟨rfl, reset_inRange⟩, fun _ => .inl ⟨rfl, rfl⟩, fun _ => ?_,
    fun c => invariants_of_not_live rfl⟩
  exact ⟨.inl rfl, Triple.same 0, .inl rfl, rfl⟩

/-- Settles O50: the elements and parameters by their definitions, and RST at power-up by what it writes. -/
theorem stateAfterReset : Obligations.StateAfterReset := by
  refine ⟨rfl, rfl, rfl, rfl, rfl, rfl, rfl, _, exec_rst _, ?_⟩
  exact rstWrites_of_zero (c := State.reset.cfg) rfl (State.powerUp State.reset.cfg).draws

/-! ### Boot order -/

/-- Boot order begins with the event this step samples; once the trace has ended that is NOP, which changes nothing. -/
theorem bootOrdered_eventsOf_input (s : State) :
    bootOrdered (eventsOf s.input) = bootOrdered (decode s.sampled.word :: eventsOf s.consume.input) := by
  unfold State.sampled
  rw [consume_input]
  match s.input with
  | [] =>
    have hidle : decode InPorts.idle.word = .nop := by decide
    rw [hidle]
    rfl
  | p :: rest => rfl

/-- The machines that never stop: those that run already, and those that see RST before the first tick (R68). -/
def State.BootReady (s : State) : Prop :=
  s.Running ∨ bootOrdered (eventsOf s.input) = true

/-- In boot order a step samples NOP, with the rest still in boot order, or RST, which leaves a running state. -/
theorem step_of_bootReady {s : State} (hs : s.BootReady) : ∃ t, step s = .next t ∧ t.BootReady := by
  obtain hrun | hboot := hs
  · obtain ⟨t, hstep, ht⟩ := step_of_running hrun
    exact ⟨t, hstep, .inl ht⟩
  · rw [bootOrdered_eventsOf_input] at hboot
    unfold step
    cases hdec : decode s.sampled.word with
    | nop =>
      rw [hdec] at hboot
      exact ⟨s.consume, rfl, .inr hboot⟩
    | rst => exact ⟨_, exec_rst _, .inl (running_of_exec_rst (exec_rst _))⟩
    | car | mod | carmod =>
      rw [hdec] at hboot
      exact absurd hboot Bool.false_ne_true

theorem runsTo_of_bootReady {s : State} (hs : s.BootReady) (k : Nat) : ∃ t, s.RunsTo k t := by
  induction k generalizing s with
  | zero => exact ⟨s, run_zero s⟩
  | succ k ih =>
    obtain ⟨u, hstep, hu⟩ := step_of_bootReady hs
    obtain ⟨t, hrun⟩ := ih hu
    exact ⟨t, (run_succ_of_next hstep).trans hrun⟩

/-- Settles O27: every step of the run completes, and every step keeps the range invariant. -/
theorem bootOrderedRunsNeverStop : Obligations.BootOrderedRunsNeverStop := by
  intro s k hs hboot
  have hready : s.BootReady := hboot.imp_left fun hl => ⟨hl, hs hl⟩
  obtain ⟨t, hrun⟩ := runsTo_of_bootReady hready k
  exact ⟨t, hrun, run_keeps State.RangeInv stepKeepsRanges k s t hs hrun⟩

theorem run_one_of_fault {s : State} {f : Fault} (h : step s = .fault f) : Sys2Proof.core.run 1 s = .fault f := by
  have h' : Sys2Proof.core.step s = .fault f := h
  simp only [Host.Core.run, h']

/-- Settles O28, by induction on the trace: a NOP leaves a shorter one out of boot order, and a tick faults. -/
theorem tickFirstRunsStop : Obligations.TickFirstRunsStop := by
  intro s hl hboot
  induction hin : s.input generalizing s with
  | nil =>
    rw [hin] at hboot
    exact absurd hboot.symm Bool.false_ne_true
  | cons p rest ih =>
    rw [bootOrdered_eventsOf_input] at hboot
    have hrest : s.consume.input = rest := by rw [consume_input, hin, List.tail_cons]
    have htick (hi : decode s.sampled.word = .car ∨ decode s.sampled.word = .mod ∨ decode s.sampled.word = .carmod) :
        ∃ k i, (i = .car ∨ i = .mod ∨ i = .carmod) ∧ Sys2Proof.core.run k s = .fault (.tickBeforeReset i) :=
      ⟨1, _, hi, run_one_of_fault (tickBeforeResetFaults s.consume _ hl hi)⟩
    cases hdec : decode s.sampled.word with
    | nop =>
      rw [hdec] at hboot
      have hstep : step s = .next s.consume := by rw [step, hdec, nopChangesNothing]
      obtain ⟨k, i, hi, hrun⟩ := ih s.consume hl hboot hrest
      exact ⟨k + 1, i, hi, (run_succ_of_next hstep).trans hrun⟩
    | car => exact htick (.inl hdec)
    | mod => exact htick (.inr (.inl hdec))
    | carmod => exact htick (.inr (.inr hdec))
    | rst =>
      rw [hdec] at hboot
      exact absurd hboot.symm Bool.false_ne_true

/-! ### The lag of the outputs -/

/-- Settles O45: MOD writes neither phases nor ports and leaves a running state, whose CAR compares with its duties. -/
theorem outputLag : Obligations.OutputLag := by
  intro s hs
  have ⟨hl, _⟩ := hs
  obtain ⟨d, hd⟩ := sampleTriple_of_running hs
  obtain ⟨t, hcar, -, hphase⟩ := exec_car_of_running (running_put_modWrites hs hd)
  exact ⟨_, t, exec_mod_of_live hl hd, rfl, pin_put_modWrites s d, hcar, hphase⟩

/-! ### From reset to the first MOD -/

/-- Between a reset under `RESET_VALUES = ZERO` and the first MOD only the carrier step differs from the elements after
reset (R71). -/
def BeforeFirstMod (c : WfCfg) (s : State) : Prop :=
  s.cfg = c ∧ ∃ x, x < c.carrierPeriod ∧ s.arch = { Arch.zeroLive with carStep := x }

theorem beforeFirstMod_of_exec_rst {c : WfCfg} {s t : State} (hz : c.resetValues = .zero) (hc : s.cfg = c)
    (h : exec .rst s = .next t) : BeforeFirstMod c t := by
  obtain rfl := exec_rst_inv h
  subst hc
  exact ⟨rfl, 0, wf_period_pos s.cfg, rstWrites_of_zero hz s.draws⟩

theorem running_of_beforeFirstMod {c : WfCfg} {s : State} (h : BeforeFirstMod c s) : s.Running := by
  obtain ⟨rfl, x, hx, harch⟩ := h
  rw [State.Running, harch]
  exact ⟨rfl, wf_n_pos s.cfg, hx, Nat.zero_le _, Nat.zero_le _, Nat.zero_le _⟩

/-- Without a modulation tick the stretch goes on: CAR compares with duties that are 0, and RST begins it again. -/
theorem exec_keeps_beforeFirstMod {c : WfCfg} {i : Instr} {s t : State} (hz : c.resetValues = .zero)
    (hi : ticksModulation i = false) (hs : BeforeFirstMod c s) (h : exec i s = .next t) : BeforeFirstMod c t := by
  cases i with
  | nop =>
    obtain rfl := exec_nop_inv h
    exact hs
  | car =>
    obtain ⟨-, -, rfl⟩ := exec_car_inv h
    obtain ⟨rfl, x, hx, harch⟩ := hs
    exact ⟨rfl, nextStep s.cfg x, nextStep_lt s.cfg hx, by rw [put_arch, harch]; rfl⟩
  | rst =>
    obtain ⟨hc, -⟩ := hs
    exact beforeFirstMod_of_exec_rst hz hc h
  | mod | carmod => exact absurd hi.symm Bool.false_ne_true

/-- A run without a modulation tick stays before the first MOD, by induction on its length. -/
theorem runsTo_beforeFirstMod {c : WfCfg} {k : Nat} {s : State} (hz : c.resetValues = .zero)
    (hs : BeforeFirstMod c s) (hnone : (s.nextEvents k).countP ticksModulation = 0) :
    ∃ t, s.RunsTo k t ∧ BeforeFirstMod c t := by
  induction k generalizing s with
  | zero => exact ⟨s, run_zero s, hs⟩
  | succ k ih =>
    obtain ⟨u, hstep, -⟩ := step_of_running (running_of_beforeFirstMod hs)
    rw [countP_nextEvents_succ rfl, Nat.add_eq_zero_iff] at hnone
    obtain ⟨hhead, htail⟩ := hnone
    have hi : ticksModulation (decode s.sampled.word) = false := by simpa using hhead
    have hu : BeforeFirstMod c u := exec_keeps_beforeFirstMod (s := s.consume) hz hi hs hstep
    have hevents : u.nextEvents k = s.consume.nextEvents k := nextEvents_congr (exec_keeps hstep).2 k
    obtain ⟨t, hrun, ht⟩ := ih hu (by rwa [hevents])
    exact ⟨t, (run_succ_of_next hstep).trans hrun, ht⟩

/-- The first MOD samples index 0 (R71). -/
theorem exec_mod_of_beforeFirstMod {c : WfCfg} {s : State} (h : BeforeFirstMod c s) :
    ∃ d v, gen c 0 = .ok d ∧ exec .mod s = .next v ∧ v.arch.duty = d := by
  obtain ⟨v, hv, -⟩ := runningMachineNeverStops s .mod (running_of_beforeFirstMod h)
  have hgen := exec_modulation_duty (.inl rfl) hv
  obtain ⟨rfl, x, -, harch⟩ := h
  rw [harch] at hgen
  exact ⟨_, v, hgen, hv, rfl⟩

/-- Settles O51: RST begins the stretch before the first MOD, and the run without modulation ticks stays in it. -/
theorem initialTransient : Obligations.InitialTransient := by
  intro s r k hz hrst hnone
  have hcount : (r.nextEvents k).countP ticksModulation = 0 :=
    List.countP_eq_zero.2 fun i hi => Bool.eq_false_iff.1 (hnone i hi)
  obtain ⟨t, hrun, ht⟩ := runsTo_beforeFirstMod hz (beforeFirstMod_of_exec_rst hz rfl hrst) hcount
  have ⟨_, x, _, harch⟩ := ht
  exact ⟨t, hrun, by rw [harch]; rfl, by rw [harch]; rfl, exec_mod_of_beforeFirstMod ht⟩

end Sys2Proof.Machine
end
